-- ==== Sys2Proof/Word.lean ====
section
/-! DEFINITION. The word types of the block: bytes, 16-bit CRCs, 32-bit operands, 10-bit cursors, 40-bit command
and response words (00_scope.md R7, R9; 30_encoding.md R80, R81). -/

namespace Sys2Proof

/-- A byte: 8 bits, 0 to 255 (R9). -/
abbrev Byte := BitVec 8

/-- A CRC value or a 16-bit integer (R5, R57). -/
abbrev Half := BitVec 16

/-- An operand or a result: 32 bits (R7). -/
abbrev Word := BitVec 32

/-- A cursor or a length register: 10 bits (R7). -/
abbrev Cursor := BitVec 10

/-- A command word or a response word: 40 bits (R7, R80, R81). -/
abbrev Word40 := BitVec 40

end Sys2Proof
end

