-- ==== Sys2Proof/Config.lean ====
section
/-! DEFINITION. What is fixed when the block is built: the numbers of 00_scope.md R5, R7, R8, the parameters of R6
(carried in State, so that a statement over every state holds for every value of them), and the free values. -/

namespace Sys2Proof

/-- The parameters the document names without a value (R6). They are what SR5 `CRCCFG` and SR6 `MARKERS` read
(R35, R36), so State holds them; no command and no reset changes them (R40). -/
structure Params where
  /-- `CRC_POLY`, the generator polynomial without its x^16 term. -/
  crcPoly : Half
  /-- `CRC_INIT`, the initial value of the CRC. -/
  crcInit : Half
  /-- `START_SHORT`, the start marker of the one-byte-length form. -/
  startShort : Byte
  /-- `START_LONG`, the start marker of the two-byte-length form. -/
  startLong : Byte
  /-- `STOP`, the stop marker. -/
  stop : Byte
  deriving DecidableEq, Repr

/-- The defaults of R6. PRESUMED: the spec marks them as general knowledge, not the document's (log 5; unsafe for a
statement that names these values, and for no other). -/
def Params.default : Params :=
  { crcPoly := 0x1021#16, crcInit := 0x0000#16, startShort := 0x02#8, startLong := 0x03#8, stop := 0x03#8 }

/-- The one relation the document gives between the parameters: `START_SHORT ≠ START_LONG` (R6). -/
abbrev Params.wf (p : Params) : Prop := p.startShort ≠ p.startLong

/-- `SHORT_MAX`: the largest payload length of the one-byte-length form (R5). -/
abbrev Config.shortMax : Nat := 255

/-- `MAX_PAYLOAD`: the largest payload length (R5). -/
abbrev Config.maxPayload : Nat := 512

/-- `TRAILER`: two CRC bytes and the stop marker (R5, R17). -/
abbrev Config.trailer : Nat := 3

/-- `SB_CAP`: capacity of the send payload buffer (R7). -/
abbrev Config.sbCap : Nat := 512

/-- `PB_CAP`: capacity of the received payload buffer (R7). -/
abbrev Config.pbCap : Nat := 512

/-- `RB_CAP`: capacity of the internal receive buffer (R7). -/
abbrev Config.rbCap : Nat := 518

/-- `FRAME_MAX`: the longest packet the framer emits (R7). -/
abbrev Config.frameMax : Nat := 518

/-- `TIMEOUT_MS`: a parameter of the environment's timer; no rule of the block reads it (R8, R213; log 19). -/
abbrev Config.timeoutMs : Nat := 100

/-- `UNSPECIFIED_32` (R11): the `data` of a failing command, one draw for each number of draws made before.
A free value: it has no body, so no proof can know it (log 3; safe). -/
opaque Config.unspecified32 : Nat → Word

/-- The count the transport offers to a `TxWrite` that no prepared answer covers (R13 (c), D12), before it is cut to
the packet's length. A free value (log 4; safe). -/
opaque Config.txCount : Nat → Nat

end Sys2Proof
end

