-- ==== Sys2Proof/Syntax.lean ====
section
/-! DEFINITION. The instructions: one constructor for each row of spec/opcode_table.json, 17 commands (30_encoding.md
R90) and the two wire-frame forms (R71, R72). Operands are the table's fields; ignored bits are none (R86). -/

namespace Sys2Proof

/-- The buffer select of `CRC16`: `arg[31]`, 0 for `SB`, 1 for `PB` (R83). -/
inductive BufSel where
  | sb
  | pb
  deriving DecidableEq, Repr

inductive Instr where
  /-- `CRC16 buf, off, len` (R104). -/
  | crc16 (buf : BufSel) (off len : Cursor)
  /-- `APPEND_U8 value` (R113): the low 8 bits of `arg`. -/
  | appendU8 (v : BitVec 8)
  /-- `APPEND_U16 value` (R114): the low 16 bits of `arg`. -/
  | appendU16 (v : BitVec 16)
  /-- `APPEND_U32 value` (R115). -/
  | appendU32 (v : BitVec 32)
  /-- `APPEND_I8 value` (R116). -/
  | appendI8 (v : BitVec 8)
  /-- `APPEND_I16 value` (R117). -/
  | appendI16 (v : BitVec 16)
  /-- `APPEND_I32 value` (R118). -/
  | appendI32 (v : BitVec 32)
  /-- `TXCLR` (R112). -/
  | txclr
  /-- `GET_U8` (R127). -/
  | getU8
  /-- `GET_U16` (R128). -/
  | getU16
  /-- `GET_U32` (R129). -/
  | getU32
  /-- `GET_I8` (R130). -/
  | getI8
  /-- `GET_I16` (R131). -/
  | getI16
  /-- `GET_I32` (R132). -/
  | getI32
  /-- `SEND` (R142). -/
  | send
  /-- `RECV` (R152). -/
  | recv
  /-- `RDSR n` (R171). -/
  | rdsr (n : Byte)
  /-- `FRAME_SHORT` (R71): start marker `START_SHORT`, one length byte, payload, CRC field, stop byte. The CRC and the
  stop byte are the ones on the wire, right or wrong (R77 (d)). -/
  | frameShort (len : Byte) (payload : List Byte) (crc : Half) (stop : Byte)
  /-- `FRAME_LONG` (R72): start marker `START_LONG`, two length bytes, payload, CRC field, stop byte. -/
  | frameLong (len : Half) (payload : List Byte) (crc : Half) (stop : Byte)
  deriving DecidableEq, Repr

end Sys2Proof
end

