-- ==== Sys2Proof/WellFormed.lean ====
section
/-! DEFINITION. Which instruction terms are well formed: the operand fields of a command are exact widths, so every
command term is; a frame carries as many payload bytes as its length field says, and at most 512 (30_encoding.md R71,
R72, R75, R77 (b)). -/

namespace Sys2Proof

/-- The well-formedness check of an instruction (R71, R72, R77 (b)). -/
def Instr.wellFormed : Instr → Bool
  | .crc16 _ _ _ => true
  | .appendU8 _ => true
  | .appendU16 _ => true
  | .appendU32 _ => true
  | .appendI8 _ => true
  | .appendI16 _ => true
  | .appendI32 _ => true
  | .txclr => true
  | .getU8 => true
  | .getU16 => true
  | .getU32 => true
  | .getI8 => true
  | .getI16 => true
  | .getI32 => true
  | .send => true
  | .recv => true
  | .rdsr _ => true
  | .frameShort len payload _ _ => decide (payload.length = len.toNat)
  | .frameLong len payload _ _ => decide (payload.length = len.toNat) && decide (len.toNat ≤ Config.maxPayload)

/-- Is the instruction one of the 17 commands (30_encoding.md Part B), not a wire frame (Part A)? -/
def Instr.isCommand : Instr → Bool
  | .crc16 _ _ _ => true
  | .appendU8 _ => true
  | .appendU16 _ => true
  | .appendU32 _ => true
  | .appendI8 _ => true
  | .appendI16 _ => true
  | .appendI32 _ => true
  | .txclr => true
  | .getU8 => true
  | .getU16 => true
  | .getU32 => true
  | .getI8 => true
  | .getI16 => true
  | .getI32 => true
  | .send => true
  | .recv => true
  | .rdsr _ => true
  | .frameShort _ _ _ _ => false
  | .frameLong _ _ _ _ => false

end Sys2Proof
end

