-- ==== Sys2Proof/Decode.lean ====
section
/-! DEFINITION. The decoder and the encoder: the 40-bit command word (30_encoding.md R80, R82 to R86, R90) and the
bytes of a wire frame (R70 to R78). Total; a code that is no instruction is rejected by name. -/

namespace Sys2Proof

/-- What is decoded: a command word on the command port, or bytes of the wire. -/
inductive Code where
  | command (w : Word40)
  | wire (bs : List Byte)
  deriving DecidableEq, Repr

/-- Why a code is no instruction. -/
inductive DecodeError where
  /-- A reserved operation code (R85). -/
  | reservedOp (op : Byte)
  /-- The first byte is neither start marker (R77 (a)). -/
  | badStart (b : Byte)
  /-- A long form that declares more than 512 payload bytes (R77 (b)). -/
  | badLength (n : Nat)
  /-- The bytes end before the frame does (R78). -/
  | incomplete
  /-- More bytes than one frame. -/
  | trailingBytes (n : Nat)
  deriving DecidableEq, Repr

/-! ## Big-endian pairs -/

/-- The 16-bit value of two bytes, the high one first (20_memory.md R54, R55). -/
def half (hi lo : Byte) : Half := hi ++ lo

/-- The high byte of a 16-bit value, `c >> 8`. -/
def hiByte (c : Half) : Byte := c.extractLsb' 8 8

/-- The low byte of a 16-bit value, `c and 0xFF`. -/
def loByte (c : Half) : Byte := c.extractLsb' 0 8

/-! ## Command words -/

/-- `cmd[39:32]` (R80). -/
def opOf (w : Word40) : Byte := w.extractLsb' 32 8

/-- `cmd[31:0]` (R80). -/
def argOf (w : Word40) : Word := w.extractLsb' 0 32

/-- `arg[31]` of format `R` (R83). -/
def bufOf (arg : Word) : BufSel := if arg.extractLsb' 31 1 = 1#1 then .pb else .sb

/-- `arg[25:16]` of format `R` (R83). -/
def offOf (arg : Word) : Cursor := arg.extractLsb' 16 10

/-- `arg[9:0]` of format `R` (R83). -/
def lenOf (arg : Word) : Cursor := arg.extractLsb' 0 10

/-- The opcode map (R90) with the operand formats of R83 and the truncation of R84. -/
def decodeOp (op : Byte) (arg : Word) : Except DecodeError Instr :=
  match op.toNat with
  | 0x10 => .ok (.crc16 (bufOf arg) (offOf arg) (lenOf arg))
  | 0x20 => .ok (.appendU8 (arg.extractLsb' 0 8))
  | 0x21 => .ok (.appendU16 (arg.extractLsb' 0 16))
  | 0x22 => .ok (.appendU32 arg)
  | 0x24 => .ok (.appendI8 (arg.extractLsb' 0 8))
  | 0x25 => .ok (.appendI16 (arg.extractLsb' 0 16))
  | 0x26 => .ok (.appendI32 arg)
  | 0x28 => .ok .txclr
  | 0x30 => .ok .getU8
  | 0x31 => .ok .getU16
  | 0x32 => .ok .getU32
  | 0x34 => .ok .getI8
  | 0x35 => .ok .getI16
  | 0x36 => .ok .getI32
  | 0x40 => .ok .send
  | 0x50 => .ok .recv
  | 0x60 => .ok (.rdsr (arg.extractLsb' 0 8))
  | _ => .error (.reservedOp op)

/-- The decoder of command words (R80). -/
def decodeCommand (w : Word40) : Except DecodeError Instr := decodeOp (opOf w) (argOf w)

/-! ## Wire frames -/

/-- The payload and the trailer of a frame whose header declared `n` payload bytes: payload, CRC field high byte first,
stop byte, and what follows the frame (R71, R72, R76, R78). -/
def splitBody (n : Nat) (bs : List Byte) : Except DecodeError (List Byte × Half × Byte × List Byte) :=
  match bs.drop n with
  | c1 :: c0 :: st :: rest => .ok (bs.take n, half c1 c0, st, rest)
  | _ => .error .incomplete

/-- The decoder of wire bytes: one frame and the bytes after it. The form is told by the first byte, the length by
counting (R70, R75, R78); whether the CRC and the stop byte are right is no matter of decoding (R77 (d)). -/
def decodeFrame (p : Params) (bs : List Byte) : Except DecodeError (Instr × List Byte) :=
  match bs with
  | [] => .error .incomplete
  | b :: r =>
    if b = p.startShort then
      match r with
      | len :: body =>
        match splitBody len.toNat body with
        | .ok (payload, crc, st, rest) => .ok (.frameShort len payload crc st, rest)
        | .error e => .error e
      | [] => .error .incomplete
    else if b = p.startLong then
      match r with
      | hi :: lo :: body =>
        let len := half hi lo
        if len.toNat > Config.maxPayload then .error (.badLength len.toNat)
        else
          match splitBody len.toNat body with
          | .ok (payload, crc, st, rest) => .ok (.frameLong len payload crc st, rest)
          | .error e => .error e
      | _ => .error .incomplete
    else .error (.badStart b)

/-- The decoder: a command word, or the bytes of exactly one frame. -/
def decode (p : Params) : Code → Except DecodeError Instr
  | .command w => decodeCommand w
  | .wire bs =>
    match decodeFrame p bs with
    | .ok (i, []) => .ok i
    | .ok (_, b :: r) => .error (.trailingBytes (b :: r).length)
    | .error e => .error e

/-! ## The encoder -/

/-- `{op, arg}` (R80). -/
def commandWord (op : Byte) (arg : Word) : Word40 := op ++ arg

/-- `arg` of format `R`: `buf` at 31, `off` at 25:16, `len` at 9:0, the ignored bits zero (R83, R86). -/
def rangeArg (buf : BufSel) (off len : Cursor) : Word :=
  (match buf with | .sb => 0#1 | .pb => 1#1) ++ (0#5 ++ (off ++ (0#6 ++ len)))

/-- Payload, CRC field high byte first, stop byte (R71, R72, R76). -/
def frameBody (payload : List Byte) (crc : Half) (stop : Byte) : List Byte :=
  payload ++ [hiByte crc, loByte crc, stop]

/-- The bytes of a short-form frame (R71). -/
def frameShortBytes (p : Params) (len : Byte) (payload : List Byte) (crc : Half) (stop : Byte) : List Byte :=
  p.startShort :: len :: frameBody payload crc stop

/-- The bytes of a long-form frame: two length bytes, high byte first (R72, R75). -/
def frameLongBytes (p : Params) (len : Half) (payload : List Byte) (crc : Half) (stop : Byte) : List Byte :=
  p.startLong :: hiByte len :: loByte len :: frameBody payload crc stop

/-- The encoder: the code of an instruction, the ignored operand bits written as zero (R80 to R84, R86, R90; R71, R72). -/
def encode (p : Params) : Instr → Code
  | .crc16 buf off len => .command (commandWord 0x10#8 (rangeArg buf off len))
  | .appendU8 v => .command (commandWord 0x20#8 (v.setWidth 32))
  | .appendU16 v => .command (commandWord 0x21#8 (v.setWidth 32))
  | .appendU32 v => .command (commandWord 0x22#8 v)
  | .appendI8 v => .command (commandWord 0x24#8 (v.setWidth 32))
  | .appendI16 v => .command (commandWord 0x25#8 (v.setWidth 32))
  | .appendI32 v => .command (commandWord 0x26#8 v)
  | .txclr => .command (commandWord 0x28#8 0#32)
  | .getU8 => .command (commandWord 0x30#8 0#32)
  | .getU16 => .command (commandWord 0x31#8 0#32)
  | .getU32 => .command (commandWord 0x32#8 0#32)
  | .getI8 => .command (commandWord 0x34#8 0#32)
  | .getI16 => .command (commandWord 0x35#8 0#32)
  | .getI32 => .command (commandWord 0x36#8 0#32)
  | .send => .command (commandWord 0x40#8 0#32)
  | .recv => .command (commandWord 0x50#8 0#32)
  | .rdsr n => .command (commandWord 0x60#8 (n.setWidth 32))
  | .frameShort len payload crc stop => .wire (frameShortBytes p len payload crc stop)
  | .frameLong len payload crc stop => .wire (frameLongBytes p len payload crc stop)

/-- The bits of a command word that its instruction reads: `op` and the fields of its format (R83, R86). -/
def usedMask : Instr → Word40
  | .crc16 _ _ _ => 0xFF83FF03FF#40
  | .appendU8 _ => 0xFF000000FF#40
  | .appendU16 _ => 0xFF0000FFFF#40
  | .appendU32 _ => 0xFFFFFFFFFF#40
  | .appendI8 _ => 0xFF000000FF#40
  | .appendI16 _ => 0xFF0000FFFF#40
  | .appendI32 _ => 0xFFFFFFFFFF#40
  | .txclr => 0xFF00000000#40
  | .getU8 => 0xFF00000000#40
  | .getU16 => 0xFF00000000#40
  | .getU32 => 0xFF00000000#40
  | .getI8 => 0xFF00000000#40
  | .getI16 => 0xFF00000000#40
  | .getI32 => 0xFF00000000#40
  | .send => 0xFF00000000#40
  | .recv => 0xFF00000000#40
  | .rdsr _ => 0xFF000000FF#40
  | .frameShort _ _ _ _ => 0#40
  | .frameLong _ _ _ _ => 0#40

/-- The operation codes that are not reserved (R85, R90). -/
def definedOps : List Byte :=
  [0x10#8, 0x20#8, 0x21#8, 0x22#8, 0x24#8, 0x25#8, 0x26#8, 0x28#8,
   0x30#8, 0x31#8, 0x32#8, 0x34#8, 0x35#8, 0x36#8, 0x40#8, 0x50#8, 0x60#8]

/-! ## The host's numbering of a table word (log 14) -/

/-- The first `nbits / 8` bytes of `w`, byte `k` being bits `8k+7 .. 8k`. -/
def tableBytes (nbits w : Nat) : List Byte := (List.range (nbits / 8)).map fun k => BitVec.ofNat 8 (w / 2 ^ (8 * k))

/-- How many bytes a table word stands for: those of the frame that begins with its bytes and goes on with zeros (R74,
R75); the bytes alone where the first one is no start marker. A long form that declares more than 512 payload bytes is no
frame (R77 (b)): that it is given 518 bytes, the length of the longest frame, all after the given ones zero, is the model's
choice (DESIGN CHOICE, log 14; safe): the decoder and the block reject it at its third byte whatever follows. -/
def tableLength (p : Params) (bs : List Byte) : Nat :=
  if bs.head? = some p.startShort then (bs.getD 1 0#8).toNat + 5
  else if bs.head? = some p.startLong then min (half (bs.getD 1 0#8) (bs.getD 2 0#8)).toNat Config.maxPayload + 6
  else bs.length

/-- The code that a table word of `nbits` bits stands for: a 40-bit row is a command word, any other row the first
bytes of a wire frame, zeros after them, up to the length of `tableLength` (DESIGN CHOICE, log 14). -/
def tableCode (p : Params) (nbits w : Nat) : Code :=
  if nbits = 40 then .command (BitVec.ofNat 40 w)
  else
    let bs := tableBytes nbits w
    let n := tableLength p bs
    .wire ((bs ++ List.replicate (n - bs.length) 0#8).take n)

/-- The instruction the decoder reads from a table word, with the default parameters. -/
def decodeTableWord (nbits w : Nat) : Option Instr :=
  match decode Params.default (tableCode Params.default nbits w) with
  | .ok i => some i
  | .error _ => none

end Sys2Proof
end

