-- ==== Sys2Proof/Machine/State.lean ====
section
/-! DEFINITION. The state of the block as plain data (10_state.md), the environment's data the step relation takes as
inputs (00_scope.md R13, R40), the observer's logs (R14), the reasons a step can stop, and the state after reset (R39). -/

namespace Sys2Proof.Machine

/-! ## Small types -/

/-- `RXST` (R25): the receive state, one bit. -/
inductive RxState where
  | idle
  | receiving
  deriving DecidableEq, Repr

/-- The status codes (60_exceptions.md R190): eleven values, no others occur. -/
inductive Status where
  | ok
  | transportShortWrite
  | frameTimeout
  | frameIntegrityStop
  | frameIntegrityCrc
  | shortPayload
  | frameBadStart
  | frameBadLength
  | bufferOverflow
  | range
  | illegalCommand
  deriving DecidableEq, Repr

/-- One response: `status` and `data` (00_scope.md R12, 30_encoding.md R81). -/
structure Response where
  status : Status
  data : Word
  deriving DecidableEq, Repr

/-- One `TxWrite`: the packet handed over and the count `W` the transport accepted (R13 (c), R142). -/
structure TxWrite where
  packet : List Byte
  accepted : Nat
  deriving DecidableEq, Repr

/-- The agents (R13). -/
inductive Agent where
  | block
  | host
  | transportTx
  | transportRx
  | timer
  | reset
  deriving DecidableEq, Repr

/-- One input of the step relation (R13, R40, R90): what happens next. -/
inductive Input where
  /-- The host gives a command word (R12). -/
  | command (w : Word40)
  /-- A byte arrives in the transport's receive buffer; the block takes nothing (R13 (d)). -/
  | arrive (b : Byte)
  /-- The event `RX_BYTE`: the block takes the oldest byte of the transport's buffer (R153). -/
  | rxByte
  /-- Bytes arrive, and the block takes bytes while it is receiving and one is there: the arrivals and `RX_BYTE`s of a
  whole frame as one input (log 10). -/
  | wire (bs : List Byte)
  /-- The event `RX_TIMEOUT` (R159). -/
  | timeout
  /-- The reset event (70_reset_and_hazards.md R220). -/
  | reset
  deriving DecidableEq, Repr

/-- The agent an input comes from (R13). Taking a byte is the block's own event. -/
def Input.agent : Input → Agent
  | .command _ => .host
  | .arrive _ => .transportRx
  | .rxByte => .block
  | .wire _ => .transportRx
  | .timeout => .timer
  | .reset => .reset

/-- The byte spaces of 20_memory.md R50. -/
inductive Space where
  | sb
  | pb
  | rb
  deriving DecidableEq, Repr

/-- One byte space: (index, byte) pairs, indices strictly rising, no byte that equals what an unlisted index reads as
(`Memory.wf`, Machine/Ops.lean). -/
abbrev Memory := List Host.Cell

/-! ## The state -/

structure State where
  /-- `SB`, the send payload buffer, 512 bytes (R22). -/
  sb : Memory
  /-- `PB`, the received payload buffer, 512 bytes (R23). -/
  pb : Memory
  /-- `RB`, the internal receive buffer, 518 bytes (R28). -/
  rb : Memory
  /-- `RXST`, the receive state (R25). -/
  rxst : RxState
  /-- `RCNT`, the fill count of `RB` (R28). -/
  rcnt : Cursor
  /-- `SR0 STATUS` (R30). -/
  status : Status
  /-- `SR1 SCUR`, the send cursor (R31). -/
  scur : Cursor
  /-- `SR2 PLEN`, the received payload length (R32). -/
  plen : Cursor
  /-- `SR3 PCUR`, the read cursor (R33). -/
  pcur : Cursor
  /-- `SR4 TXCNT`, the transmit count (R34). -/
  txcnt : Cursor
  /-- `SR5 CRCCFG` and `SR6 MARKERS`: the parameters, read-only (R35, R36, R6). -/
  params : Params
  /-- The environment's script: what happens next, oldest first (log 1). -/
  inputs : List Input
  /-- The transport's receive buffer, oldest first (R13 (d)). -/
  rxBuf : List Byte
  /-- The counts the transport will offer to the next `TxWrite` calls (R13 (c); log 4). -/
  txAnswers : List Nat
  /-- How many free values have been drawn (log 3). -/
  draws : Nat
  /-- The responses emitted, oldest first (R14). -/
  responses : List Response
  /-- The `TxWrite` calls made, oldest first (R14). -/
  txLog : List TxWrite
  /-- The bytes taken from the transport, oldest first (R14). -/
  rxTaken : List Byte
  deriving DecidableEq, Repr

/-- Why the machine stops: the spec gives no step. -/
inductive Fault where
  /-- Raised by `step` when the environment's script is empty: no agent acts. Safe (log 1). -/
  | noInput
  /-- Raised by a command presented while `RXST = RECEIVING`: the command port accepts nothing, no step exists
  (45_system.md R170, U18). Safe (log 2). -/
  | commandWhileReceiving
  /-- Raised by an `rxByte` input when the event is not enabled: `RXST = IDLE` or no byte waits (R153). Safe (log 2). -/
  | rxByteNotEnabled
  /-- Raised by a `timeout` input while `RXST = IDLE`: the event cannot occur (R159, R204). Safe (log 2). -/
  | timeoutNotEnabled
  /-- Raised by an access past the capacity of a buffer (R60): only in states that R38 excludes. Safe (log 12). -/
  | noSuchIndex (space : Space)
  deriving DecidableEq, Repr

/-- Why an instruction has no meaning. -/
inductive Refusal where
  /-- Raised by `exec`'s arm of an instruction that is not modelled; no arm of this model is. Safe. -/
  | notModelled (mnemonic : String)
  /-- Raised by `SEND` with `SCUR > 512`: `frame` has no value there (43_framer.md R140, U16); only in states that R38
  excludes. Safe (log 13). -/
  | frameHasNoValue
  deriving DecidableEq, Repr

/-- The block right after reset (R39, R220), with the default parameters (log 5) and nothing presented, waiting or
logged (log 9). -/
def State.reset : State :=
  { sb := [], pb := [], rb := []
    rxst := .idle, rcnt := 0, status := .ok, scur := 0, plen := 0, pcur := 0, txcnt := 0
    params := Params.default
    inputs := [], rxBuf := [], txAnswers := [], draws := 0
    responses := [], txLog := [], rxTaken := [] }

end Sys2Proof.Machine
end

