-- ==== Sys2Proof/Machine/Flags.lean ====
section
/-! DEFINITION. The one flag-like state of the block, the status: its codes (60_exceptions.md R190), the response word
(30_encoding.md R81), the document's four failure classes (R18, R190), and who writes `STATUS` (45_system.md R173). -/

namespace Sys2Proof.Machine

/-- The code of a status (R190). -/
def Status.code : Status → BitVec 8
  | .ok => 0#8
  | .transportShortWrite => 1#8
  | .frameTimeout => 2#8
  | .frameIntegrityStop => 3#8
  | .frameIntegrityCrc => 4#8
  | .shortPayload => 5#8
  | .frameBadStart => 6#8
  | .frameBadLength => 7#8
  | .bufferOverflow => 8#8
  | .range => 9#8
  | .illegalCommand => 10#8

/-- The response word: `rsp[39:32] = status`, `rsp[31:0] = data` (R81). -/
def Response.word (r : Response) : Word40 := r.status.code ++ r.data

/-- The document's failure taxonomy (60_exceptions.md, introduction). -/
inductive DocFailure where
  | transportShortWrite
  | frameTimeout
  | frameIntegrityFailure
  | shortPayload
  deriving DecidableEq, Repr

/-- The document's class of a status (R18, R190): 3, 4, 6 and 7 are one class; `OK` and the codes 8, 9, 10 have none. -/
def Status.docClass : Status → Option DocFailure
  | .ok => none
  | .transportShortWrite => some .transportShortWrite
  | .frameTimeout => some .frameTimeout
  | .frameIntegrityStop => some .frameIntegrityFailure
  | .frameIntegrityCrc => some .frameIntegrityFailure
  | .shortPayload => some .shortPayload
  | .frameBadStart => some .frameIntegrityFailure
  | .frameBadLength => some .frameIntegrityFailure
  | .bufferOverflow => none
  | .range => none
  | .illegalCommand => none

/-- Emit the response of the current command (R11 `respond`), without touching `STATUS`: what `RDSR` does (R171). -/
def State.respond (st : Status) (data : Word) (s : State) : State :=
  { s with responses := s.responses ++ [{ status := st, data := data }] }

/-- Complete a command: `STATUS` takes the status of its response (R173). -/
def State.complete (st : Status) (data : Word) (s : State) : State :=
  { s with status := st, responses := s.responses ++ [{ status := st, data := data }] }

/-- The `data` field of the response that comes next, when the spec leaves it unspecified (R81, U7; log 3). -/
def State.unspecifiedData (s : State) : Word := Config.unspecified32 s.draws

/-- Count one draw of a free value (log 3). -/
def State.drawn (s : State) : State := { s with draws := s.draws + 1 }

end Sys2Proof.Machine
end

