-- ==== Sys2Proof/Machine/Operands.lean ====
section
/-! DEFINITION. Operands and results: big-endian integers (20_memory.md R54), zero and sign extension (00_scope.md R10),
the range of `CRC16` (30_encoding.md R83) and the registers `RDSR` reads (10_state.md R30 to R37). -/

namespace Sys2Proof.Machine

/-- The `n` bytes of an `8n`-bit value, most significant first: byte `i` is `v[8(n-1-i)+7 : 8(n-1-i)]` (R54, `MemWrite`
of R11). -/
def beBytes {k : Nat} (n : Nat) (v : BitVec k) : List Byte :=
  (List.range n).map fun i => v.extractLsb' (8 * (n - 1 - i)) 8

/-- The natural number a byte sequence stands for, most significant byte first (R54, `MemRead` of R11). -/
def beValue (bs : List Byte) : Nat := bs.foldl (fun acc b => acc * 256 + b.toNat) 0

/-- A big-endian integer of `w` bytes, zero-extended (`signed = false`) or sign-extended to 32 bits (R10, R126). -/
def extendTo32 (w : Nat) (signed : Bool) (bs : List Byte) : Word :=
  let v : BitVec (8 * w) := BitVec.ofNat (8 * w) (beValue bs)
  if signed then v.signExtend 32 else v.setWidth 32

/-- `SR[n]` (R30 to R36); none for the reserved numbers 7 to 255 (R37). -/
def State.readSr (n : Byte) (s : State) : Option Word :=
  match n.toNat with
  | 0 => some (s.status.code.setWidth 32)
  | 1 => some (s.scur.setWidth 32)
  | 2 => some (s.plen.setWidth 32)
  | 3 => some (s.pcur.setWidth 32)
  | 4 => some (s.txcnt.setWidth 32)
  | 5 => some (s.params.crcInit ++ s.params.crcPoly)
  | 6 => some (0#8 ++ (s.params.stop ++ (s.params.startLong ++ s.params.startShort)))
  | _ => none

/-- The valid extent of the buffer that `CRC16` selects: `SCUR` or `PLEN` (R104). -/
def State.extent (buf : BufSel) (s : State) : Nat :=
  match buf with
  | .sb => s.scur.toNat
  | .pb => s.plen.toNat

/-- The buffer that `CRC16` selects (R104). -/
def State.buffer (buf : BufSel) (s : State) : Memory :=
  match buf with
  | .sb => s.sb
  | .pb => s.pb

/-- The space of the buffer that `CRC16` selects. -/
def spaceOf (buf : BufSel) : Space :=
  match buf with
  | .sb => .sb
  | .pb => .pb

/-- The capacity of a space (R50). -/
def Space.cap : Space → Nat
  | .sb => Config.sbCap
  | .pb => Config.pbCap
  | .rb => Config.rbCap

end Sys2Proof.Machine
end

