-- ==== Sys2Proof/Machine/Ops.lean ====
section
/-! DEFINITION. The named operations over buffers and registers: reading and writing a byte space (20_memory.md R50 to
R54), accepting a command (45_system.md R170), failing (60_exceptions.md R208: what the block has in place of taking an
exception; there is nothing to return from, R210), and handing a packet to the transport (00_scope.md R13 (c)). -/

namespace Sys2Proof.Machine

/-! ## Byte spaces -/

/-- What an index that is not listed reads as. DESIGN CHOICE 0x00: the spec leaves every such byte unspecified and
unreadable (R22, R23, R24, R28; log 7; unsafe as a value, and no response depends on it). -/
def Memory.unwritten : Byte := 0x00#8

/-- The byte at index `a`. -/
def Memory.read : Memory → Nat → Byte
  | [], _ => Memory.unwritten
  | (k, b) :: m, a => if k = a then b else Memory.read m a

/-- Write the byte at index `a`, keeping the canonical form. -/
def Memory.write : Memory → Nat → Byte → Memory
  | [], a, b => if b = Memory.unwritten then [] else [(a, b)]
  | (k, v) :: m, a, b =>
    if a < k then (if b = Memory.unwritten then (k, v) :: m else (a, b) :: (k, v) :: m)
    else if a = k then (if b = Memory.unwritten then m else (a, b) :: m)
    else (k, v) :: Memory.write m a b

/-- The canonical form: indices strictly rising, no entry that equals what an unlisted index reads as. -/
abbrev Memory.wf (m : Memory) : Prop :=
  m.Pairwise (fun x y => x.1 < y.1) ∧ ∀ c ∈ m, c.2 ≠ Memory.unwritten

/-- Every listed index lies below the capacity of the space (R60). -/
abbrev Memory.within (cap : Nat) (m : Memory) : Prop := ∀ c ∈ m, c.1 < cap

/-- `space[a .. a+n)` (R9). -/
def Memory.readRange (m : Memory) (a n : Nat) : List Byte := (List.range n).map fun i => m.read (a + i)

/-- Write a byte sequence at `a, a+1, ...` (`MemWrite` of R11). -/
def Memory.writeRange : Memory → Nat → List Byte → Memory
  | m, _, [] => m
  | m, a, b :: bs => Memory.writeRange (m.write a b) (a + 1) bs

/-- `space[a .. a+n)` if the space has all those indices (R60). -/
def Memory.fetch (m : Memory) (cap a n : Nat) : Option (List Byte) :=
  if a + n ≤ cap then some (m.readRange a n) else none

/-! ## Commands and failures -/

/-- Command acceptance: a command has a step only when `RXST = IDLE` (R170, U18). -/
def State.accept (s : State) (k : Host.Outcome State Fault Refusal) : Host.Outcome State Fault Refusal :=
  match s.rxst with
  | .idle => k
  | .receiving => .fault .commandWhileReceiving

/-- `raise` of R11 for a failure whose `data` is unspecified (R208 (a), (b), (c)): `STATUS` takes the code, the response
is emitted, nothing else changes. -/
def State.raise (st : Status) (s : State) : State := (s.complete st s.unspecifiedData).drawn

/-- A failure of a receive (R158, R208 (e)): no payload, the receive buffer discarded, the block idle, `data = 0`. -/
def State.failReceive (st : Status) (s : State) : State :=
  { s with plen := 0, pcur := 0, rcnt := 0, rxst := .idle }.complete st 0

/-! ## The transport, transmit side -/

/-- The count `W` the transport answers to a `TxWrite` of `n` bytes, `0 ≤ W ≤ n` (R13 (c), D12): the next prepared
answer, or a free value when none is prepared, cut to `n` (log 4). -/
def State.txAccept (n : Nat) (s : State) : Nat :=
  match s.txAnswers with
  | a :: _ => min a n
  | [] => min (Config.txCount s.draws) n

/-- `TxWrite(pkt)`: the packet goes to the transport, the answer is used up (R13 (c)). -/
def State.txWrite (pkt : List Byte) (s : State) : State :=
  { s with
    txAnswers := s.txAnswers.tail
    draws := if s.txAnswers.isEmpty then s.draws + 1 else s.draws
    txLog := s.txLog ++ [{ packet := pkt, accepted := s.txAccept pkt.length }] }

end Sys2Proof.Machine
end

