-- ==== Sys2Proof/Machine/Crc.lean ====
section
/-! DEFINITION. The Integrity Codec (40_crc.md): `crc_step`, its table form, `crc16`, and the command `CRC16`. -/

namespace Sys2Proof.Machine

/-- One shift of the CRC register: left by one, xor `CRC_POLY` when a one falls out (R100). -/
def crcShift (poly : Half) (c : Half) : Half := if c.msb then (c <<< 1) ^^^ poly else c <<< 1

/-- `k` shifts. -/
def crcShifts (poly : Half) : Nat → Half → Half
  | 0, c => c
  | k + 1, c => crcShifts poly k (crcShift poly c)

/-- `crc_step(c, b)`: the byte into the high byte of `c`, then eight shifts (R100; the bit order and the absence of
reflection are the spec's general knowledge, G3, log 6). -/
def crcStep (poly : Half) (c : Half) (b : Byte) : Half := crcShifts poly 8 (c ^^^ (b.setWidth 16 <<< 8))

/-- The table `T[i] = crc_step(0, i)` (R101). -/
def crcTable (poly : Half) (i : Byte) : Half := crcStep poly 0 i

/-- `crc16_from(c0, s)` (R102). -/
def crc16From (poly : Half) (c : Half) (bs : List Byte) : Half := bs.foldl (crcStep poly) c

/-- `crc16(s)` (R102): from `CRC_INIT`, no final xor. -/
def crc16 (p : Params) (bs : List Byte) : Half := crc16From p.crcPoly p.crcInit bs

/-- `CRC16 buf, off, len` (R104): `RANGE` when the range leaves the valid extent, else the CRC of the range; only
`STATUS` changes. -/
def execCrc16 (buf : BufSel) (off len : Cursor) (s : State) : Host.Outcome State Fault Refusal :=
  s.accept <|
    if off.toNat + len.toNat > s.extent buf then .next (s.raise .range)
    else
      match (s.buffer buf).fetch (spaceOf buf).cap off.toNat len.toNat with
      | none => .fault (.noSuchIndex (spaceOf buf))
      | some bs => .next (s.complete .ok ((crc16 s.params bs).setWidth 32))

end Sys2Proof.Machine
end

