-- ==== Sys2Proof/Machine/Deframer.lean ====
section
/-! DEFINITION. The deframer (44_deframer.md): the function `deframe`, the command `RECV`, the receive events, and the
delivery of a whole frame (the rows FRAME_SHORT and FRAME_LONG of the opcode table). -/

namespace Sys2Proof.Machine

/-- The header length `H` that a first byte selects (R154): 2, 3, or none for a byte that is no start marker. -/
def headerLen (p : Params) (b : Byte) : Option Nat :=
  if b = p.startShort then some 2 else if b = p.startLong then some 3 else none

/-- The declared length `Ld` (R155, R75): one byte after a 2-byte header's marker, two big-endian after a 3-byte one's. -/
def declaredLen (h : Nat) (b1 b2 : Byte) : Nat := if h = 2 then b1.toNat else b1.toNat * 256 + b2.toNat

/-! ## The function -/

/-- What a byte sequence is as the beginning of a received stream (R150). -/
inductive Verdict where
  | incomplete
  | fail (st : Status) (taken : Nat)
  | ok (payload : List Byte) (taken : Nat)
  deriving DecidableEq, Repr

/-- The byte of `s` at index `i`; only asked inside `s`. -/
def byteAt (s : List Byte) (i : Nat) : Byte := s.getD i 0#8

/-- `deframe(s)` (R150). -/
def deframe (p : Params) (s : List Byte) : Verdict :=
  if s.length < 1 then .incomplete
  else
    match headerLen p (byteAt s 0) with
    | none => .fail .frameBadStart 1
    | some h =>
      if s.length < h then .incomplete
      else
        let ld := declaredLen h (byteAt s 1) (byteAt s 2)
        if ld > Config.maxPayload then .fail .frameBadLength 3
        else
          let t := h + ld + Config.trailer
          if s.length < t then .incomplete
          else if byteAt s (t - 1) ≠ p.stop then .fail .frameIntegrityStop t
          else
            let payload := (s.drop h).take ld
            if half (byteAt s (h + ld)) (byteAt s (h + ld + 1)) ≠ crc16 p payload then .fail .frameIntegrityCrc t
            else .ok payload t

/-! ## The receive operation -/

/-- `RECV` (R152): the previous payload is gone, the receive starts, no response yet. -/
def execRecv (s : State) : Host.Outcome State Fault Refusal :=
  s.accept (.next { s with plen := 0, pcur := 0, rcnt := 0, rxst := .receiving })

/-- Success of a receive (R157): the payload to `PB`, `RB` discarded, the block idle, the length answered. -/
def State.receiveOk (h ld : Nat) (s : State) : State :=
  { s with
    pb := s.pb.writeRange 0 (s.rb.readRange h ld)
    plen := BitVec.ofNat 10 ld, pcur := 0, rcnt := 0, rxst := .idle }.complete .ok (BitVec.ofNat 32 ld)

/-- `validate` (R156): the stop marker first, then the CRC. -/
def State.validate (h ld : Nat) (s : State) : State :=
  if s.rb.read (h + ld + 2) ≠ s.params.stop then s.failReceive .frameIntegrityStop
  else if half (s.rb.read (h + ld)) (s.rb.read (h + ld + 1)) ≠ crc16 s.params (s.rb.readRange h ld) then
    s.failReceive .frameIntegrityCrc
  else s.receiveOk h ld

/-- The checks after a byte is stored (R153 to R156): the start marker, the length once the header is complete, the
whole frame once its last byte is there; otherwise wait. -/
def State.checkReceived (s : State) : State :=
  match headerLen s.params (s.rb.read 0) with
  | none => s.failReceive .frameBadStart
  | some h =>
    if s.rcnt.toNat < h then s
    else
      let ld := declaredLen h (s.rb.read 1) (s.rb.read 2)
      if s.rcnt.toNat = h ∧ ld > Config.maxPayload then s.failReceive .frameBadLength
      else if s.rcnt.toNat = h + ld + Config.trailer then s.validate h ld
      else s

/-- `RB[RCNT] <- b ; RCNT <- RCNT + 1`: the byte leaves the transport for `RB` (R153). -/
def State.storeReceived (b : Byte) (s : State) : State :=
  { s with rb := s.rb.write s.rcnt.toNat b, rcnt := s.rcnt + 1, rxTaken := s.rxTaken ++ [b] }

/-- Take one byte while receiving (R153). -/
def State.takeByte (b : Byte) (s : State) : Host.Outcome State Fault Refusal :=
  if s.rcnt.toNat < Config.rbCap then .next (s.storeReceived b).checkReceived
  else .fault (.noSuchIndex .rb)

/-- The event `RX_BYTE` (R153): enabled exactly when receiving and a byte waits; takes the oldest. -/
def eventRxByte (s : State) : Host.Outcome State Fault Refusal :=
  match s.rxst, s.rxBuf with
  | .receiving, b :: rest => { s with rxBuf := rest }.takeByte b
  | .receiving, [] => .fault .rxByteNotEnabled
  | .idle, _ => .fault .rxByteNotEnabled

/-- The event `RX_TIMEOUT` (R159): enabled exactly when receiving. -/
def eventTimeout (s : State) : Host.Outcome State Fault Refusal :=
  match s.rxst with
  | .receiving => .next (s.failReceive .frameTimeout)
  | .idle => .fault .timeoutNotEnabled

/-- A byte arrives in the transport's receive buffer (R13 (d)). -/
def eventArrive (b : Byte) (s : State) : Host.Outcome State Fault Refusal :=
  .next { s with rxBuf := s.rxBuf ++ [b] }

/-- Take the waiting bytes `bs`, oldest first, while the block is receiving; the rest stays (R160). -/
def takeWaiting : List Byte → State → Host.Outcome State Fault Refusal
  | [], s => .next s
  | b :: rest, s =>
    match s.rxst with
    | .idle => .next s
    | .receiving =>
      match { s with rxBuf := rest }.takeByte b with
      | .next t => takeWaiting rest t
      | .fault r => .fault r
      | .refused r => .refused r

/-- Bytes come off the wire: they join the transport's receive buffer, and the block takes what it can (R13 (d), R153,
R160; log 10, log 15). -/
def State.deliver (bs : List Byte) (s : State) : Host.Outcome State Fault Refusal :=
  takeWaiting (s.rxBuf ++ bs) { s with rxBuf := s.rxBuf ++ bs }

/-- `FRAME_SHORT` (R71): the transport delivers a short-form frame. -/
def execFrameShort (len : Byte) (payload : List Byte) (crc : Half) (stop : Byte) (s : State) :
    Host.Outcome State Fault Refusal :=
  s.deliver (frameShortBytes s.params len payload crc stop)

/-- `FRAME_LONG` (R72): the transport delivers a long-form frame. -/
def execFrameLong (len : Half) (payload : List Byte) (crc : Half) (stop : Byte) (s : State) :
    Host.Outcome State Fault Refusal :=
  s.deliver (frameLongBytes s.params len payload crc stop)

end Sys2Proof.Machine
end

