-- ==== Sys2Proof/Machine/Deserializer.lean ====
section
/-! DEFINITION. The deserializer (42_deserializer.md): the six reads of `PB` at `PCUR`. -/

namespace Sys2Proof.Machine

/-- `get(w, s)` (R126): `SHORT_PAYLOAD` when fewer than `w` bytes are left (R133), else the big-endian value extended to
32 bits, the cursor advanced. -/
def State.get (w : Nat) (signed : Bool) (s : State) : Host.Outcome State Fault Refusal :=
  s.accept <|
    if s.pcur.toNat + w > s.plen.toNat then .next (s.raise .shortPayload)
    else
      match s.pb.fetch Config.pbCap s.pcur.toNat w with
      | none => .fault (.noSuchIndex .pb)
      | some bs => .next ({ s with pcur := s.pcur + BitVec.ofNat 10 w }.complete .ok (extendTo32 w signed bs))

/-- `GET_U8` (R127). -/
def execGetU8 (s : State) : Host.Outcome State Fault Refusal := s.get 1 false

/-- `GET_U16` (R128). -/
def execGetU16 (s : State) : Host.Outcome State Fault Refusal := s.get 2 false

/-- `GET_U32` (R129). -/
def execGetU32 (s : State) : Host.Outcome State Fault Refusal := s.get 4 false

/-- `GET_I8` (R130). -/
def execGetI8 (s : State) : Host.Outcome State Fault Refusal := s.get 1 true

/-- `GET_I16` (R131). -/
def execGetI16 (s : State) : Host.Outcome State Fault Refusal := s.get 2 true

/-- `GET_I32` (R132). -/
def execGetI32 (s : State) : Host.Outcome State Fault Refusal := s.get 4 true

end Sys2Proof.Machine
end

