-- ==== Sys2Proof/Machine/Framer.lean ====
section
/-! DEFINITION. The framer (43_framer.md): the function `frame` and the command `SEND`. -/

namespace Sys2Proof.Machine

/-- Start marker and length of a payload of length `n` (R140, R73, R75). -/
def frameHeader (p : Params) (n : Nat) : List Byte :=
  if n ≤ Config.shortMax then [p.startShort, BitVec.ofNat 8 n]
  else [p.startLong, BitVec.ofNat 8 (n / 256), BitVec.ofNat 8 (n % 256)]

/-- `frame(P)` (R140): header, payload verbatim, CRC high byte first, stop marker; no value for more than 512 bytes. -/
def frame (p : Params) (payload : List Byte) : Option (List Byte) :=
  if payload.length ≤ Config.maxPayload then
    some (frameHeader p payload.length ++ frameBody payload (crc16 p payload) p.stop)
  else none

/-- What `SEND` leaves once the packet is handed over: `TXCNT` the accepted count, the payload spent, the response `OK` or
`TRANSPORT_SHORT_WRITE` with the count as data (R142, R143, R208 (d)). -/
def State.finishSend (n w : Nat) (s : State) : State :=
  { s with txcnt := BitVec.ofNat 10 w, scur := 0 }.complete (if w = n then .ok else .transportShortWrite) (BitVec.ofNat 32 w)

/-- `SEND` (R142). -/
def execSend (s : State) : Host.Outcome State Fault Refusal :=
  s.accept <|
    match frame s.params (s.sb.readRange 0 s.scur.toNat) with
    | none => .refused .frameHasNoValue
    | some pkt => .next ((s.txWrite pkt).finishSend pkt.length (s.txAccept pkt.length))

end Sys2Proof.Machine
end

