-- ==== Sys2Proof/Machine/Serializer.lean ====
section
/-! DEFINITION. The serializer (41_serializer.md): `TXCLR` and the six appends on `SB` and `SCUR`. -/

namespace Sys2Proof.Machine

/-- `append(w, arg)` (R111) with the value already cut to its width (R84): `BUFFER_OVERFLOW` when it does not fit
(R120), else big-endian at `SCUR`, the cursor advanced, the new cursor answered. -/
def State.append {k : Nat} (w : Nat) (v : BitVec k) (s : State) : Host.Outcome State Fault Refusal :=
  s.accept <|
    if s.scur.toNat + w > Config.sbCap then .next (s.raise .bufferOverflow)
    else
      let cur : Cursor := s.scur + BitVec.ofNat 10 w
      .next ({ s with sb := s.sb.writeRange s.scur.toNat (beBytes w v), scur := cur }.complete .ok (cur.setWidth 32))

/-- `TXCLR` (R112). -/
def execTxclr (s : State) : Host.Outcome State Fault Refusal :=
  s.accept (.next ({ s with scur := 0 }.complete .ok 0))

/-- `APPEND_U8` (R113). -/
def execAppendU8 (v : BitVec 8) (s : State) : Host.Outcome State Fault Refusal := s.append 1 v

/-- `APPEND_U16` (R114). -/
def execAppendU16 (v : BitVec 16) (s : State) : Host.Outcome State Fault Refusal := s.append 2 v

/-- `APPEND_U32` (R115). -/
def execAppendU32 (v : BitVec 32) (s : State) : Host.Outcome State Fault Refusal := s.append 4 v

/-- `APPEND_I8` (R116); the same write as `APPEND_U8` (R119). -/
def execAppendI8 (v : BitVec 8) (s : State) : Host.Outcome State Fault Refusal := s.append 1 v

/-- `APPEND_I16` (R117); the same write as `APPEND_U16` (R119). -/
def execAppendI16 (v : BitVec 16) (s : State) : Host.Outcome State Fault Refusal := s.append 2 v

/-- `APPEND_I32` (R118); the same write as `APPEND_U32` (R119). -/
def execAppendI32 (v : BitVec 32) (s : State) : Host.Outcome State Fault Refusal := s.append 4 v

end Sys2Proof.Machine
end

