-- ==== Sys2Proof/Machine/System.lean ====
section
/-! DEFINITION. The system commands (45_system.md): `RDSR`, illegal commands, and the reset event
(70_reset_and_hazards.md R220, R221). -/

namespace Sys2Proof.Machine

/-- `RDSR n` (R171): the register, or `RANGE` for a reserved number; `STATUS` is not written either way (R173). -/
def execRdsr (n : Byte) (s : State) : Host.Outcome State Fault Refusal :=
  s.accept <|
    match s.readSr n with
    | some v => .next (s.respond .ok v)
    | none => .next (s.respond .range s.unspecifiedData).drawn

/-- A command word with a reserved operation code (R172): accepted like any command (R170), `ILLEGAL_COMMAND`, no other
effect. -/
def illegalCommand (s : State) : Host.Outcome State Fault Refusal :=
  s.accept (.next (s.raise .illegalCommand))

/-- The reset event, in any state (R220, R221): the block's state as after reset, the parameters kept (R40); the
transport, the script, the free draws and the logs are not the block's and stay (log 17). -/
def eventReset (s : State) : Host.Outcome State Fault Refusal :=
  .next { State.reset with
    params := s.params, inputs := s.inputs, rxBuf := s.rxBuf, txAnswers := s.txAnswers, draws := s.draws
    responses := s.responses, txLog := s.txLog, rxTaken := s.rxTaken }

end Sys2Proof.Machine
end

