-- ==== Sys2Proof/Machine/Dispatch.lean ====
section
/-! DEFINITION. One arm for each constructor of Instr. -/

namespace Sys2Proof.Machine

def exec (i : Instr) (s : State) : Host.Outcome State Fault Refusal :=
  match i with
  | .crc16 buf off len => Sys2Proof.Machine.execCrc16 buf off len s
  | .appendU8 v => Sys2Proof.Machine.execAppendU8 v s
  | .appendU16 v => Sys2Proof.Machine.execAppendU16 v s
  | .appendU32 v => Sys2Proof.Machine.execAppendU32 v s
  | .appendI8 v => Sys2Proof.Machine.execAppendI8 v s
  | .appendI16 v => Sys2Proof.Machine.execAppendI16 v s
  | .appendI32 v => Sys2Proof.Machine.execAppendI32 v s
  | .txclr => Sys2Proof.Machine.execTxclr s
  | .getU8 => Sys2Proof.Machine.execGetU8 s
  | .getU16 => Sys2Proof.Machine.execGetU16 s
  | .getU32 => Sys2Proof.Machine.execGetU32 s
  | .getI8 => Sys2Proof.Machine.execGetI8 s
  | .getI16 => Sys2Proof.Machine.execGetI16 s
  | .getI32 => Sys2Proof.Machine.execGetI32 s
  | .send => Sys2Proof.Machine.execSend s
  | .recv => Sys2Proof.Machine.execRecv s
  | .rdsr n => Sys2Proof.Machine.execRdsr n s
  | .frameShort len payload crc stop => Sys2Proof.Machine.execFrameShort len payload crc stop s
  | .frameLong len payload crc stop => Sys2Proof.Machine.execFrameLong len payload crc stop s

end Sys2Proof.Machine
end

