-- ==== Sys2Proof/Machine/Fetch.lean ====
section
/-! DEFINITION. What one input does (00_scope.md R12, R13): a command word is decoded and executed, or is illegal
(45_system.md R172); wire bytes are a frame, executed, or are delivered as they are; the events act. -/

namespace Sys2Proof.Machine

/-- Run a command word (R80, R170, R172). -/
def runCommand (w : Word40) (s : State) : Host.Outcome State Fault Refusal :=
  match decode s.params (.command w) with
  | .ok i => exec i s
  | .error _ => illegalCommand s

/-- Run wire bytes: the frame they decode to, or, when they are not one frame, the bytes as they come (R160; log 15). -/
def runWire (bs : List Byte) (s : State) : Host.Outcome State Fault Refusal :=
  match decode s.params (.wire bs) with
  | .ok i => exec i s
  | .error _ => s.deliver bs

/-- Run one input. -/
def runInput (x : Input) (s : State) : Host.Outcome State Fault Refusal :=
  match x with
  | .command w => runCommand w s
  | .arrive b => eventArrive b s
  | .rxByte => eventRxByte s
  | .wire bs => runWire bs s
  | .timeout => eventTimeout s
  | .reset => eventReset s

/-- The input that presents a code to the machine. -/
def inputOf : Code → Input
  | .command w => .command w
  | .wire bs => .wire bs

end Sys2Proof.Machine
end

