-- ==== Sys2Proof/Machine/Step.lean ====
section
/-! DEFINITION. One step: the next input of the environment's script, run to completion (00_scope.md R12, R13, R40;
20_memory.md R58, R61). -/

namespace Sys2Proof.Machine

/-- One step. With nothing presented no agent acts: the machine waits, by name (log 1). -/
def step (s : State) : Host.Outcome State Fault Refusal :=
  match s.inputs with
  | [] => .fault .noInput
  | x :: rest => runInput x { s with inputs := rest }

/-- `s` with a table word presented next: the block fetches nothing from a memory, it is given its commands and wire
bytes (R21), so the word is put at the head of the script (log 11, log 14). -/
def State.withFetchWord (s : State) (nbits w : Nat) : State :=
  { s with inputs := inputOf (tableCode s.params nbits w) :: s.inputs }

end Sys2Proof.Machine
end

