-- ==== Sys2Proof/Machine/Asm.lean ====
section
/-! DEFINITION. The program notation of 30_encoding.md R88, as a printer (log 25). -/

namespace Sys2Proof.Machine

/-- One hexadecimal digit. -/
def hexDigit (n : Nat) : String := "0123456789ABCDEF".toList[n % 16]?.elim "" String.singleton

/-- `k` hexadecimal digits of `n`. -/
def hexOf : Nat → Nat → String
  | 0, _ => ""
  | k + 1, n => hexOf k (n / 16) ++ hexDigit n

/-- Bytes as `xx xx ...`. -/
def hexBytes (bs : List Byte) : String := " ".intercalate (bs.map fun b => hexOf 2 b.toNat)

/-- The name of a status (R190). -/
def Status.name : Status → String
  | .ok => "OK"
  | .transportShortWrite => "TRANSPORT_SHORT_WRITE"
  | .frameTimeout => "FRAME_TIMEOUT"
  | .frameIntegrityStop => "FRAME_INTEGRITY_STOP"
  | .frameIntegrityCrc => "FRAME_INTEGRITY_CRC"
  | .shortPayload => "SHORT_PAYLOAD"
  | .frameBadStart => "FRAME_BAD_START"
  | .frameBadLength => "FRAME_BAD_LENGTH"
  | .bufferOverflow => "BUFFER_OVERFLOW"
  | .range => "RANGE"
  | .illegalCommand => "ILLEGAL_COMMAND"

/-- A register by its name, a reserved number by its number (R88, R30). -/
def srName (n : Byte) : String :=
  match n.toNat with
  | 0 => "STATUS"
  | 1 => "SCUR"
  | 2 => "PLEN"
  | 3 => "PCUR"
  | 4 => "TXCNT"
  | 5 => "CRCCFG"
  | 6 => "MARKERS"
  | k => toString k

/-- A command in the assembler notation; a frame as the bytes it delivers (R88). -/
def asm (p : Params) : Instr → String
  | .crc16 .sb off len => "CRC16 SB, " ++ toString off.toNat ++ ", " ++ toString len.toNat
  | .crc16 .pb off len => "CRC16 PB, " ++ toString off.toNat ++ ", " ++ toString len.toNat
  | .appendU8 v => "APPEND_U8 " ++ toString v.toNat
  | .appendU16 v => "APPEND_U16 " ++ toString v.toNat
  | .appendU32 v => "APPEND_U32 " ++ toString v.toNat
  | .appendI8 v => "APPEND_I8 " ++ toString v.toInt
  | .appendI16 v => "APPEND_I16 " ++ toString v.toInt
  | .appendI32 v => "APPEND_I32 " ++ toString v.toInt
  | .txclr => "TXCLR"
  | .getU8 => "GET_U8"
  | .getU16 => "GET_U16"
  | .getU32 => "GET_U32"
  | .getI8 => "GET_I8"
  | .getI16 => "GET_I16"
  | .getI32 => "GET_I32"
  | .send => "SEND"
  | .recv => "RECV"
  | .rdsr n => "RDSR " ++ srName n
  | .frameShort len payload crc stop => "<- RX " ++ hexBytes (frameShortBytes p len payload crc stop)
  | .frameLong len payload crc stop => "<- RX " ++ hexBytes (frameLongBytes p len payload crc stop)

/-- A response: `-> STATUSNAME data` (R88). -/
def Response.asm (r : Response) : String := "-> " ++ r.status.name ++ " 0x" ++ hexOf 8 r.data.toNat

/-- A transmission: `=> TX xx xx ... W=n` (R88). -/
def TxWrite.asm (t : TxWrite) : String := "=> TX " ++ hexBytes t.packet ++ " W=" ++ toString t.accepted

end Sys2Proof.Machine
end

