-- ==== Sys2Proof/Machine/HostCall.lean ====
section
/-! DEFINITION. The host's call state machine, which the document gives the calling layer (60_exceptions.md R214), in
terms of the statuses its commands answered. No part of the block (00_scope.md R4 (e)); log 24. -/

namespace Sys2Proof.Machine

/-- The states of one call (R214). -/
inductive CallState where
  | idle
  | sent
  | awaitingReply
  | decoded
  | timedOut
  | crcFailed
  | shortReply
  deriving DecidableEq, Repr

/-- After `SEND`: sent, or none where the call fails (R214). -/
def callAfterSend (send : Status) : Option CallState := if send = .ok then some .sent else none

/-- After the response of `RECV` and the statuses of the reads of the decode routine, in order (R214, R196): none where
the routine is not over (it stops at the first failure) or a status cannot occur there. -/
def callAfterReply (recv : Status) (gets : List Status) : Option CallState :=
  match recv with
  | .ok => if gets.all (· == .ok) then some .decoded else if gets.contains .shortPayload then some .shortReply else none
  | .frameTimeout => some .timedOut
  | .frameIntegrityStop => some .crcFailed
  | .frameIntegrityCrc => some .crcFailed
  | .frameBadStart => some .crcFailed
  | .frameBadLength => some .crcFailed
  | .transportShortWrite => none
  | .shortPayload => none
  | .bufferOverflow => none
  | .range => none
  | .illegalCommand => none

end Sys2Proof.Machine
end

