-- ==== Sys2Proof/Machine/Scaled.lean ====
section
/-! DEFINITION. The scaled fixed-point pseudo-operations of the host (46_scaled_pseudo.md R180 to R187, 30_encoding.md
R89): exact arithmetic around one integer command each. No part of the block (00_scope.md R4 (f)); log 18. -/

namespace Sys2Proof.Machine

/-- The four target types `T` (R181). -/
inductive ScaledType where
  | i16
  | u16
  | i32
  | u32
  deriving DecidableEq, Repr

/-- `ROUND_TIE` (R182): open, with no default, so it is an argument everywhere. -/
inductive RoundTie where
  | awayFromZero
  | toEven
  | towardZero
  | up
  deriving DecidableEq, Repr

/-- A physical value of the host: finite, or a NaN or an infinity, of which the document says nothing (R183). -/
inductive Physical where
  | finite (x : ℚ)
  | notFinite
  deriving DecidableEq, Repr

/-- Which neighbour of `k + 1/2` is taken (R182). -/
def RoundTie.pick (tie : RoundTie) (k : Int) : Int :=
  match tie with
  | .awayFromZero => if 0 ≤ k then k + 1 else k
  | .toEven => if k % 2 = 0 then k else k + 1
  | .towardZero => if 0 ≤ k then k else k + 1
  | .up => k + 1

/-- `round_nearest` (R182). -/
def roundNearest (tie : RoundTie) (y : ℚ) : Int :=
  let k := ⌊y⌋
  if y - k < 1 / 2 then k else if 1 / 2 < y - k then k + 1 else tie.pick k

/-- Is the integer in the range of the type (R181)? -/
def ScaledType.inRange (t : ScaledType) (n : Int) : Bool :=
  match t with
  | .i16 => decide (-32768 ≤ n) && decide (n ≤ 32767)
  | .u16 => decide (0 ≤ n) && decide (n ≤ 65535)
  | .i32 => decide (-2147483648 ≤ n) && decide (n ≤ 2147483647)
  | .u32 => decide (0 ≤ n) && decide (n ≤ 4294967295)

/-- `arg = sext_32(two's complement pattern of n in the width of T)`, to the letter for the unsigned types too (R181). -/
def ScaledType.argOf (t : ScaledType) (n : Int) : Word :=
  match t with
  | .i16 => (BitVec.ofInt 16 n).signExtend 32
  | .u16 => (BitVec.ofInt 16 n).signExtend 32
  | .i32 => BitVec.ofInt 32 n
  | .u32 => BitVec.ofInt 32 n

/-- The operation code of `APPEND_T` (R90). -/
def ScaledType.appendOp (t : ScaledType) : Byte :=
  match t with
  | .i16 => 0x25#8
  | .u16 => 0x21#8
  | .i32 => 0x26#8
  | .u32 => 0x22#8

/-- The instruction `APPEND_T n`: the low bits of `arg` are its operand (R84, R89). -/
def ScaledType.appendOf (t : ScaledType) (n : Int) : Instr :=
  match t with
  | .i16 => .appendI16 ((t.argOf n).setWidth 16)
  | .u16 => .appendU16 ((t.argOf n).setWidth 16)
  | .i32 => .appendI32 (t.argOf n)
  | .u32 => .appendU32 (t.argOf n)

/-- `GET_T` (R184). -/
def ScaledType.getOf (t : ScaledType) : Instr :=
  match t with
  | .i16 => .getI16
  | .u16 => .getU16
  | .i32 => .getI32
  | .u32 => .getU32

/-- The integer `n` that `APPEND_SCALED.T x, S` appends, or none where the host must not issue the operation: a value out
of range or not finite (R183). That a scale of 0, which is no positive integer, issues nothing is the model's choice
(DESIGN CHOICE, log 18; safe). -/
def scaledInteger (tie : RoundTie) (t : ScaledType) (x : Physical) (scale : Nat) : Option Int :=
  match x with
  | .notFinite => none
  | .finite q =>
    if scale = 0 then none
    else if t.inRange (roundNearest tie (q * scale)) then some (roundNearest tie (q * scale))
    else none

/-- `APPEND_SCALED.T x, S` (R181): the instruction it issues, or none. -/
def appendScaled (tie : RoundTie) (t : ScaledType) (x : Physical) (scale : Nat) : Option Instr :=
  (scaledInteger tie t x scale).map t.appendOf

/-- `APPEND_SCALED.T x, S` (R181): the command word it issues, its `arg` sign-extended, or none. -/
def appendScaledWord (tie : RoundTie) (t : ScaledType) (x : Physical) (scale : Nat) : Option Word40 :=
  (scaledInteger tie t x scale).map fun n => commandWord t.appendOp (t.argOf n)

/-- `GET_SCALED.T S` (R184): the instruction it issues. That a scale of 0 issues nothing is the model's choice (DESIGN
CHOICE, log 18; safe). -/
def getScaledIssue (t : ScaledType) (scale : Nat) : Option Instr := if scale = 0 then none else some t.getOf

/-- Why `GET_SCALED` delivers no value. -/
inductive ScaledFailure where
  /-- The status of the `GET_T` that failed (R184). -/
  | status (st : Status)
  /-- The scale is 0: nothing was issued, so there is no response to read (log 18). -/
  | notIssued
  deriving DecidableEq, Repr

/-- `data` read as the type reads it: signed for `I16`, `I32`, unsigned for `U16`, `U32` (R184). -/
def ScaledType.reading (t : ScaledType) (data : Word) : Int :=
  match t with
  | .i16 => data.toInt
  | .u16 => data.toNat
  | .i32 => data.toInt
  | .u32 => data.toNat

/-- `GET_SCALED.T S` after the response of `GET_T` (R184): the status of a failure, or the exact quotient. With a scale
of 0 there is none (DESIGN CHOICE, log 18; safe). -/
def getScaled (t : ScaledType) (scale : Nat) (r : Response) : Except ScaledFailure ℚ :=
  if scale = 0 then .error .notIssued
  else
    match r.status with
    | .ok => .ok ((t.reading r.data : ℚ) / scale)
    | st => .error (.status st)

end Sys2Proof.Machine
end

