-- ==== Sys2Proof/Safety.lean ====
section
/-! DEFINITION. What statements about the block are said in: the state invariants (10_state.md R38), the stops that a run
of the block can meet, the states no observer can tell apart (R24), and a bit flipped on the link (44_deframer.md R163). -/

namespace Sys2Proof.Machine

/-! ## The invariants of R38 -/

/-- R38 (h): where the deframer stands inside a frame, once it has taken a byte. The first byte is a start marker; once
the header is complete, the declared length is legal and the frame is not complete. -/
def State.insideFrame (s : State) : Prop :=
  ∃ h, headerLen s.params (s.rb.read 0) = some h ∧
    (h ≤ s.rcnt.toNat →
      declaredLen h (s.rb.read 1) (s.rb.read 2) ≤ Config.maxPayload ∧
      s.rcnt.toNat < h + declaredLen h (s.rb.read 1) (s.rb.read 2) + Config.trailer)

/-- The state invariants (R38), with the canonical form of the three spaces, their capacities (R60) and the one
constraint on the parameters (R6). -/
structure BlockInv (s : State) : Prop where
  /-- R38 (a). -/
  scur_le : s.scur.toNat ≤ Config.sbCap
  /-- R38 (b). -/
  pcur_le : s.pcur.toNat ≤ s.plen.toNat
  /-- R38 (b). -/
  plen_le : s.plen.toNat ≤ Config.pbCap
  /-- R38 (c). -/
  rcnt_le : s.rcnt.toNat ≤ Config.rbCap
  /-- R38 (d). -/
  idle_rcnt : s.rxst = .idle → s.rcnt = 0
  /-- R38 (e). -/
  receiving_empty : s.rxst = .receiving → s.plen = 0 ∧ s.pcur = 0
  /-- R38 (f). -/
  txcnt_le : s.txcnt.toNat ≤ Config.frameMax
  /-- R38 (g). -/
  status_code : s.status.code.toNat ≤ 10
  /-- R38 (h). -/
  position : s.rxst = .receiving → 1 ≤ s.rcnt.toNat → s.insideFrame
  sb_wf : s.sb.wf
  pb_wf : s.pb.wf
  rb_wf : s.rb.wf
  sb_within : s.sb.within Config.sbCap
  pb_within : s.pb.within Config.pbCap
  rb_within : s.rb.within Config.rbCap
  params_wf : s.params.wf

/-! ## Runs -/

/-- A step that stops because the environment asks for something that has no step: nothing presented (log 1), a command
while receiving (R170), an event that is not enabled (R153, R159). -/
def EnvironmentStop (s : State) (r : Fault) : Prop :=
  (s.inputs = [] ∧ r = .noInput) ∨
  (∃ w rest, s.inputs = .command w :: rest ∧ s.rxst = .receiving ∧ r = .commandWhileReceiving) ∨
  (∃ rest, s.inputs = .rxByte :: rest ∧ (s.rxst = .idle ∨ s.rxBuf = []) ∧ r = .rxByteNotEnabled) ∨
  (∃ rest, s.inputs = .timeout :: rest ∧ s.rxst = .idle ∧ r = .timeoutNotEnabled)

/-- An unbounded run: at every moment `n` the environment presents `env n` to the machine in the state `σ n`, and the step
leads to `σ (n + 1)` (R13). The script of a State is finite, so a run without end is a sequence of presented inputs; that
form is the model's (DESIGN CHOICE, log 19; safe). -/
def UnboundedRun (env : Nat → Input) (σ : Nat → State) : Prop :=
  ∀ n, step { σ n with inputs := [env n] } = .next (σ (n + 1))

/-- The fairness assumption on the timer, the only one of the spec (00_scope.md R13 (e), 60_exceptions.md R213, U31): in a
receive that never completes the event `RX_TIMEOUT` eventually occurs. No definition assumes it; a statement that needs it
names it. -/
def TimerFair (env : Nat → Input) (σ : Nat → State) : Prop :=
  ∀ n, (∀ m, n ≤ m → (σ m).rxst = .receiving) → ∃ m, n ≤ m ∧ env m = .timeout

/-! ## What cannot be told apart (R24) -/

/-- The state without its three byte spaces. -/
def State.withoutBuffers (s : State) : State := { s with sb := [], pb := [], rb := [] }

/-- Two states that differ at most in bytes outside the valid extents (R24, R28). -/
structure SameReadable (s t : State) : Prop where
  rest : s.withoutBuffers = t.withoutBuffers
  sb : ∀ a, a < s.scur.toNat → s.sb.read a = t.sb.read a
  pb : ∀ a, a < s.plen.toNat → s.pb.read a = t.pb.read a
  rb : ∀ a, a < s.rcnt.toNat → s.rb.read a = t.rb.read a

/-- Two outcomes that no observer tells apart. -/
def SameOutcome : Host.Outcome State Fault Refusal → Host.Outcome State Fault Refusal → Prop
  | .next s, .next t => SameReadable s t
  | .fault r, .fault q => r = q
  | .refused r, .refused q => r = q
  | _, _ => False

/-! ## Words for statements -/

/-- One bit of one byte of a sequence flipped (R163). -/
def flipBit (bs : List Byte) (i k : Nat) : List Byte := bs.modify i (· ^^^ (1#8 <<< k))

/-- The instruction appends exactly these bytes at `SCUR` when they fit, answers the new cursor, and changes nothing
else (R111). -/
def AppendsBytes (i : Instr) (bs : List Byte) : Prop :=
  ∀ s : State, s.rxst = .idle → s.sb.wf → s.scur.toNat + bs.length ≤ Config.sbCap →
    ∃ t, exec i s = .next t ∧
      t.scur.toNat = s.scur.toNat + bs.length ∧
      (∀ k (h : k < bs.length), t.sb.read (s.scur.toNat + k) = bs[k]) ∧
      (∀ a, a < s.scur.toNat ∨ s.scur.toNat + bs.length ≤ a → t.sb.read a = s.sb.read a) ∧
      t.status = .ok ∧
      t.responses = s.responses ++ [{ status := .ok, data := BitVec.ofNat 32 (s.scur.toNat + bs.length) }] ∧
      { t with sb := s.sb, scur := s.scur, status := s.status, responses := s.responses } = s

/-- The instruction reads `w` bytes at `PCUR` when they are there, answers `value s` and changes nothing else but the
cursor and the status (R126). -/
def ReadsValue (i : Instr) (w : Nat) (value : State → Word) : Prop :=
  ∀ s : State, s.rxst = .idle → s.plen.toNat ≤ Config.pbCap → s.pcur.toNat + w ≤ s.plen.toNat →
    ∃ t, exec i s = .next t ∧
      t.pcur.toNat = s.pcur.toNat + w ∧
      t.status = .ok ∧
      t.responses = s.responses ++ [{ status := .ok, data := value s }] ∧
      { t with pcur := s.pcur, status := s.status, responses := s.responses } = s

/-- The instruction fails with `st`: an unspecified `data`, `STATUS` the code, nothing else changed (R208 (a) to (c)). -/
def FailsWith (i : Instr) (st : Status) (s : State) : Prop :=
  ∃ d : Word, exec i s = .next { s with
    status := st, responses := s.responses ++ [{ status := st, data := d }], draws := s.draws + 1 }

/-- Nothing changed but the receive side (`RB`, `PB` and their registers), `STATUS`, the responses, and what came from
the transport and the script (10_state.md R28, R29; 44_deframer.md R152: `SB`, `SCUR`, `TXCNT` are never touched). -/
def OnlyReceiveSide (s t : State) : Prop :=
  t = { s with
    rb := t.rb, pb := t.pb, plen := t.plen, pcur := t.pcur, rcnt := t.rcnt, rxst := t.rxst
    status := t.status, responses := t.responses, rxBuf := t.rxBuf, rxTaken := t.rxTaken, inputs := t.inputs }

/-- The six integer types of the append and read commands (R57). -/
inductive IntType where
  | u8
  | u16
  | u32
  | i8
  | i16
  | i32
  deriving DecidableEq, Repr

/-- The width in bytes (R57). -/
def IntType.width : IntType → Nat
  | .u8 => 1
  | .u16 => 2
  | .u32 => 4
  | .i8 => 1
  | .i16 => 2
  | .i32 => 4

/-- The append of the type, with the operand word's low bits (R84). -/
def IntType.appendOf (ty : IntType) (arg : Word) : Instr :=
  match ty with
  | .u8 => .appendU8 (arg.setWidth 8)
  | .u16 => .appendU16 (arg.setWidth 16)
  | .u32 => .appendU32 arg
  | .i8 => .appendI8 (arg.setWidth 8)
  | .i16 => .appendI16 (arg.setWidth 16)
  | .i32 => .appendI32 arg

/-- The read of the type. -/
def IntType.getOf : IntType → Instr
  | .u8 => .getU8
  | .u16 => .getU16
  | .u32 => .getU32
  | .i8 => .getI8
  | .i16 => .getI16
  | .i32 => .getI32

/-- What comes back: the operand cut to the width, zero-extended for the unsigned types, sign-extended for the signed
ones (R134). -/
def IntType.valueOf (ty : IntType) (arg : Word) : Word :=
  match ty with
  | .u8 => (arg.setWidth 8).setWidth 32
  | .u16 => (arg.setWidth 16).setWidth 32
  | .u32 => arg
  | .i8 => (arg.setWidth 8).signExtend 32
  | .i16 => (arg.setWidth 16).signExtend 32
  | .i32 => arg

/-- The input that gives a command of the instruction set. -/
def give (s : State) (i : Instr) : Input := inputOf (encode s.params i)

end Sys2Proof.Machine
end

