-- ==== Sys2Proof/Certificates/Slice0/Obligations.lean ====
section
/-! DEFINITION. The statements for the provers. R<n> is a numbered rule of spec/. Where a clause rests on a choice of the
model or on an inference the spec marks as its own, the docstring says so. The fields `inputs`, `txAnswers`, `draws`,
`responses`, `txLog` and `rxTaken` of State are the model's own (log 1, 3, 4, 9, 22): a clause that follows one says how the
model records what the rule says, and that a draw counter moves is the model's way to keep a value free (log 3). -/

open Sys2Proof Sys2Proof.Machine

/-! ## Encoding -/

/-- 30_encoding.md R71, R72, R80 to R84, R90: the decoder reads back every well-formed instruction, every operand at every
value, from the code the encoder writes. -/
def Obligations.DecodeInvertsEncode : Prop :=
  ∀ p : Params, p.wf → ∀ i : Instr, i.wellFormed = true → decode p (encode p i) = .ok i

/-- R83: a command word that decodes is the word of its instruction, up to the ignored bits: no bit that is used is lost.
That the encoder writes the ignored bits as zero is the model's choice (log 16). -/
def Obligations.CommandWordIsItsUsedBits : Prop :=
  ∀ (p : Params) (w : Word40) (i : Instr), decodeCommand w = .ok i → encode p i = .command (w &&& usedMask i)

/-- R86: the bits a format does not use are ignored: any value of them decodes to the same instruction and steps to the
same outcome. -/
def Obligations.IgnoredBitsHaveNoEffect : Prop :=
  ∀ (w w' : Word40) (i : Instr), decodeCommand w = .ok i → w' &&& usedMask i = w &&& usedMask i →
    decodeCommand w' = .ok i ∧
    ∀ (s : State) (rest : List Input), step { s with inputs := .command w' :: rest } = step { s with inputs := .command w :: rest }

/-- R85, R90: exactly the 17 operation codes of the map decode; the 239 others are reserved and rejected by name. -/
def Obligations.ReservedOpsAreExactlyTheRejectedOnes : Prop :=
  (∀ w : Word40, opOf w ∈ definedOps → ∃ i, decodeCommand w = .ok i ∧ i.isCommand = true) ∧
  (∀ w : Word40, opOf w ∉ definedOps → decodeCommand w = .error (.reservedOp (opOf w))) ∧
  ((List.range 256).filter fun n => BitVec.ofNat 8 n ∉ definedOps).length = 239

/-- R71, R72, R75, R78: whatever wire bytes decode to is a well-formed frame whose bytes stand at their beginning, and the
rest is what follows. -/
def Obligations.DecodedFrameStandsAtTheBeginning : Prop :=
  ∀ (p : Params) (bs rest : List Byte) (i : Instr), decodeFrame p bs = .ok (i, rest) →
    i.wellFormed = true ∧ i.isCommand = false ∧ ∃ f, encode p i = .wire f ∧ bs = f ++ rest

/-- Words of 95_test_vectors.md, written out from the encodings of R80, R83 and R71, R72, decode to their instructions. -/
def Obligations.SampleWordsDecode : Prop :=
  decodeCommand 0x1080010002#40 = .ok (.crc16 .pb 1 2) ∧
  decodeCommand 0x107C00FC05#40 = .ok (.crc16 .sb 0 5) ∧
  decodeCommand 0x20000001FF#40 = .ok (.appendU8 0xFF) ∧
  decodeCommand 0x25FFFFFF85#40 = .ok (.appendI16 0xFF85) ∧
  decodeCommand 0x28DEADBEEF#40 = .ok .txclr ∧
  decodeCommand 0x3600000000#40 = .ok .getI32 ∧
  decodeCommand 0x6000000105#40 = .ok (.rdsr 5) ∧
  decode Params.default (.wire [0x02, 0x01, 0x04, 0x40, 0x84, 0x03]) = .ok (.frameShort 1 [0x04] 0x4084 0x03) ∧
  decode Params.default (.wire [0x03, 0x00, 0x01, 0x04, 0x40, 0x84, 0x03]) = .ok (.frameLong 1 [0x04] 0x4084 0x03)

/-- 60_exceptions.md R190, R81: the eleven status codes, all different, and the response word that carries them. -/
def Obligations.StatusCodesAndResponseWord : Prop :=
  (∀ a b : Status, a.code = b.code → a = b) ∧
  Status.ok.code = 0 ∧ Status.transportShortWrite.code = 1 ∧ Status.frameTimeout.code = 2 ∧
  Status.frameIntegrityStop.code = 3 ∧ Status.frameIntegrityCrc.code = 4 ∧ Status.shortPayload.code = 5 ∧
  Status.frameBadStart.code = 6 ∧ Status.frameBadLength.code = 7 ∧ Status.bufferOverflow.code = 8 ∧
  Status.range.code = 9 ∧ Status.illegalCommand.code = 10 ∧
  ∀ r : Response, r.word.extractLsb' 32 8 = r.status.code ∧ r.word.extractLsb' 0 32 = r.data

/-! ## The step -/

/-- First clause, R12, R80: when the code presented next decodes to an instruction, the step is its execution, the input
used up (that what comes next is the head of a script is the model's choice, log 1). Second clause, no rule of the spec but
the model's choice (log 11, log 14): the same for a table word that `withFetchWord` puts next, numbered as `tableCode`
reads it. -/
def Obligations.StepRunsTheDecodedInstruction : Prop :=
  (∀ (s : State) (c : Code) (i : Instr) (rest : List Input),
    s.inputs = inputOf c :: rest → decode s.params c = .ok i → step s = exec i { s with inputs := rest }) ∧
  (∀ (s : State) (nbits w : Nat) (i : Instr),
    decode s.params (tableCode s.params nbits w) = .ok i → step (s.withFetchWord nbits w) = exec i s)

/-- R172: a command word with a reserved operation code completes at once with `ILLEGAL_COMMAND`, unspecified data, and
changes nothing but `STATUS`; the block stays idle. -/
def Obligations.IllegalCommandChangesOnlyStatus : Prop :=
  ∀ (s : State) (w : Word40) (rest : List Input),
    s.inputs = .command w :: rest → opOf w ∉ definedOps → s.rxst = .idle →
    ∃ d : Word, step s = .next { s with
      inputs := rest, status := .illegalCommand, draws := s.draws + 1
      responses := s.responses ++ [{ status := .illegalCommand, data := d }] }

/-- R170 (U18): while `RXST = RECEIVING` no command has a step, neither one of the 17 nor an illegal one. That the model
stops there by the name `commandWhileReceiving` is its choice (log 2). -/
def Obligations.NoCommandIsAcceptedWhileReceiving : Prop :=
  ∀ s : State, s.rxst = .receiving →
    (∀ i : Instr, i.isCommand = true → exec i s = .fault .commandWhileReceiving) ∧
    (∀ (w : Word40) (rest : List Input), s.inputs = .command w :: rest → step s = .fault .commandWhileReceiving)

/-- R12, R152, R173: a command other than `RECV` that completes answers exactly one response and leaves the block idle;
`RECV` answers none when it starts. -/
def Obligations.EveryCommandButRecvAnswersOnce : Prop :=
  ∀ (s t : State) (i : Instr), i.isCommand = true → exec i s = .next t →
    (i ≠ .recv → t.rxst = .idle ∧ ∃ r, t.responses = s.responses ++ [r]) ∧
    (i = .recv → t.rxst = .receiving ∧ t.responses = s.responses ∧ t.status = s.status)

/-! ## Integrity Codec -/

/-- 40_crc.md R101 (a derived rule of the spec): the table form of `crc_step`. -/
def Obligations.CrcStepHasTheTableForm : Prop :=
  ∀ (poly c : Half) (b : Byte),
    crcStep poly c b = crcTable poly ((c >>> 8).setWidth 8 ^^^ b) ^^^ (c <<< 8)

/-- R103 (a), (e), (f): the CRC is incremental; a leading zero byte does not change it when `CRC_INIT = 0`; the check
value of the default parameters is 0x31C3 (the spec's general knowledge, G5). -/
def Obligations.CrcIncrementalLeadingZeroCheckValue : Prop :=
  (∀ (poly c : Half) (a b : List Byte), crc16From poly c (a ++ b) = crc16From poly (crc16From poly c a) b) ∧
  (∀ (p : Params) (bs : List Byte), p.crcInit = 0 → crc16 p (0 :: bs) = crc16 p bs) ∧
  crc16 Params.default [0x31, 0x32, 0x33, 0x34, 0x35, 0x36, 0x37, 0x38, 0x39] = 0x31C3

/-- R103 (b): the CRC is linear over GF(2). -/
def Obligations.CrcIsLinear : Prop :=
  ∀ (poly c d : Half) (s e : List Byte), s.length = e.length →
    crc16From poly (c ^^^ d) (List.zipWith (· ^^^ ·) s e) = crc16From poly c s ^^^ crc16From poly d e

/-- R103 (c): with a nonzero polynomial, flipping any single bit of a byte sequence changes its CRC. -/
def Obligations.CrcDetectsEverySingleBitError : Prop :=
  ∀ (p : Params) (bs : List Byte) (i k : Nat), p.crcPoly ≠ 0 → i < bs.length → k < 8 →
    crc16 p (flipBit bs i k) ≠ crc16 p bs

/-- R103 (d): running the CRC over its own two bytes gives zero, so payload plus CRC has residue zero. -/
def Obligations.CrcResidueIsZero : Prop :=
  (∀ poly c : Half, crc16From poly c [hiByte c, loByte c] = 0) ∧
  (∀ (p : Params) (bs : List Byte),
    crc16 p (bs ++ [hiByte (crc16 p bs), loByte (crc16 p bs)]) = 0)

/-- R104: the word of `CRC16`; it answers the CRC of the range when it lies inside the valid extent, `RANGE` when it does
not, and changes only `STATUS`. The premise on the extent is R38 (a), (b). -/
def Obligations.Crc16AnswersTheCrcOfTheRange : Prop :=
  (∀ w : Word40, opOf w = 0x10#8 → decodeCommand w = .ok (.crc16
    (if w.extractLsb' 31 1 = 1#1 then .pb else .sb) (w.extractLsb' 16 10) (w.extractLsb' 0 10))) ∧
  ∀ (s : State) (buf : BufSel) (off len : Cursor), s.rxst = .idle → s.extent buf ≤ (spaceOf buf).cap →
    (off.toNat + len.toNat ≤ s.extent buf →
      exec (.crc16 buf off len) s = .next { s with
        status := .ok
        responses := s.responses ++ [
          { status := .ok, data := (crc16 s.params ((s.buffer buf).readRange off.toNat len.toNat)).setWidth 32 }] }) ∧
    (s.extent buf < off.toNat + len.toNat → FailsWith (.crc16 buf off len) .range s)

/-! ## Serializer -/

/-- 41_serializer.md R111, R113 to R118: each append writes the low bits of its operand word big-endian at `SCUR`,
advances the cursor, answers it, and changes nothing else. That the bytes of `SB` above the new cursor keep their old
value is the model's choice (R111 leaves them unspecified and unreadable; log 8). -/
def Obligations.AppendsWriteBigEndianAtTheCursor : Prop :=
  ∀ arg : Word,
    (decodeCommand (commandWord 0x20#8 arg) = .ok (.appendU8 (arg.setWidth 8)) ∧
      AppendsBytes (.appendU8 (arg.setWidth 8)) [arg.extractLsb' 0 8]) ∧
    (decodeCommand (commandWord 0x21#8 arg) = .ok (.appendU16 (arg.setWidth 16)) ∧
      AppendsBytes (.appendU16 (arg.setWidth 16)) [arg.extractLsb' 8 8, arg.extractLsb' 0 8]) ∧
    (decodeCommand (commandWord 0x22#8 arg) = .ok (.appendU32 arg) ∧
      AppendsBytes (.appendU32 arg)
        [arg.extractLsb' 24 8, arg.extractLsb' 16 8, arg.extractLsb' 8 8, arg.extractLsb' 0 8]) ∧
    (decodeCommand (commandWord 0x24#8 arg) = .ok (.appendI8 (arg.setWidth 8)) ∧
      AppendsBytes (.appendI8 (arg.setWidth 8)) [arg.extractLsb' 0 8]) ∧
    (decodeCommand (commandWord 0x25#8 arg) = .ok (.appendI16 (arg.setWidth 16)) ∧
      AppendsBytes (.appendI16 (arg.setWidth 16)) [arg.extractLsb' 8 8, arg.extractLsb' 0 8]) ∧
    (decodeCommand (commandWord 0x26#8 arg) = .ok (.appendI32 arg) ∧
      AppendsBytes (.appendI32 arg)
        [arg.extractLsb' 24 8, arg.extractLsb' 16 8, arg.extractLsb' 8 8, arg.extractLsb' 0 8])

/-- R120: an append that would pass 512 fails with `BUFFER_OVERFLOW`, writes no byte and leaves the cursor; the block
stays idle, so the next command is accepted, and a narrower append that fits succeeds. -/
def Obligations.AppendThatDoesNotFitWritesNothing : Prop :=
  (∀ s t : State, s.rxst = .idle → 512 < s.scur.toNat + 4 → s.scur.toNat + 1 ≤ 512 → ∀ v v', exec (.appendU32 v) s = .next t →
    ∃ u, exec (.appendU8 v') t = .next u ∧ u.status = .ok ∧ u.scur.toNat = s.scur.toNat + 1) ∧
  ∀ s : State, s.rxst = .idle →
    (512 < s.scur.toNat + 1 → ∀ v, FailsWith (.appendU8 v) .bufferOverflow s ∧ FailsWith (.appendI8 v) .bufferOverflow s) ∧
    (512 < s.scur.toNat + 2 → ∀ v, FailsWith (.appendU16 v) .bufferOverflow s ∧ FailsWith (.appendI16 v) .bufferOverflow s) ∧
    (512 < s.scur.toNat + 4 → ∀ v, FailsWith (.appendU32 v) .bufferOverflow s ∧ FailsWith (.appendI32 v) .bufferOverflow s)

/-- R119 (a derived rule of the spec): signed and unsigned appends of one width are the same function. -/
def Obligations.SignedAndUnsignedAppendsAgree : Prop :=
  ∀ s : State, (∀ v, exec (.appendI8 v) s = exec (.appendU8 v) s) ∧ (∀ v, exec (.appendI16 v) s = exec (.appendU16 v) s) ∧
    (∀ v, exec (.appendI32 v) s = exec (.appendU32 v) s)

/-- R112: the word of `TXCLR`, `arg` ignored; it sets `SCUR` to 0, answers `(OK, 0)` and changes nothing else
(state written: `SCUR`, `STATUS`). That every byte of `SB` keeps its value, now outside the extent, is the model's choice
(log 8): R112 and R24 leave those bytes unspecified. -/
def Obligations.TxclrEmptiesTheSendBuffer : Prop :=
  (∀ w : Word40, opOf w = 0x28#8 → decodeCommand w = .ok .txclr) ∧
  ∀ s : State, s.rxst = .idle → exec .txclr s = .next { s with
    scur := 0, status := .ok, responses := s.responses ++ [{ status := .ok, data := 0 }] }

/-! ## Deserializer -/

/-- 42_deserializer.md R126 to R132: each read answers the big-endian value at `PCUR`, zero- or sign-extended to 32 bits,
advances the cursor by the width, and changes nothing else. The premise `PLEN ≤ 512` is R38 (b). -/
def Obligations.GetsAnswerTheBigEndianValue : Prop :=
  ReadsValue .getU8 1 (fun s => (s.pb.read s.pcur.toNat).setWidth 32) ∧
  ReadsValue .getI8 1 (fun s => (s.pb.read s.pcur.toNat).signExtend 32) ∧
  ReadsValue .getU16 2 (fun s =>
    (half (s.pb.read s.pcur.toNat) (s.pb.read (s.pcur.toNat + 1))).setWidth 32) ∧
  ReadsValue .getI16 2 (fun s =>
    (half (s.pb.read s.pcur.toNat) (s.pb.read (s.pcur.toNat + 1))).signExtend 32) ∧
  ReadsValue .getU32 4 (fun s =>
    BitVec.ofNat 32 ((s.pb.read s.pcur.toNat).toNat * 16777216 + (s.pb.read (s.pcur.toNat + 1)).toNat * 65536 +
      (s.pb.read (s.pcur.toNat + 2)).toNat * 256 + (s.pb.read (s.pcur.toNat + 3)).toNat)) ∧
  ReadsValue .getI32 4 (fun s =>
    BitVec.ofNat 32 ((s.pb.read s.pcur.toNat).toNat * 16777216 + (s.pb.read (s.pcur.toNat + 1)).toNat * 65536 +
      (s.pb.read (s.pcur.toNat + 2)).toNat * 256 + (s.pb.read (s.pcur.toNat + 3)).toNat))

/-- R133: a read whose bytes are not all there fails with `SHORT_PAYLOAD`, consumes nothing, and is not sticky: a later
read that fits succeeds. -/
def Obligations.ReadPastThePayloadConsumesNothing : Prop :=
  (∀ s : State, s.rxst = .idle →
    (s.plen.toNat < s.pcur.toNat + 1 → FailsWith .getU8 .shortPayload s ∧ FailsWith .getI8 .shortPayload s) ∧
    (s.plen.toNat < s.pcur.toNat + 2 → FailsWith .getU16 .shortPayload s ∧ FailsWith .getI16 .shortPayload s) ∧
    (s.plen.toNat < s.pcur.toNat + 4 → FailsWith .getU32 .shortPayload s ∧ FailsWith .getI32 .shortPayload s)) ∧
  (∀ s t : State, BlockInv s → s.rxst = .idle → s.plen.toNat < s.pcur.toNat + 4 → exec .getU32 s = .next t →
    (s.pcur.toNat + 2 ≤ s.plen.toNat →
      ∃ u, exec .getU16 t = .next u ∧ u.status = .ok ∧ u.pcur.toNat = s.pcur.toNat + 2) ∧
    (s.pcur.toNat + 1 ≤ s.plen.toNat →
      ∃ u, exec .getU8 t = .next u ∧ u.status = .ok ∧ u.pcur.toNat = s.pcur.toNat + 1))

/-! ## Framer -/

/-- 43_framer.md R140 with the positions of R71, R72 and R76: the packet of a payload of 0 to 512 bytes, field by field;
no packet for a longer one. -/
def Obligations.FrameFieldsStandAtTheirPositions : Prop :=
  ∀ (p : Params) (P : List Byte),
    (512 < P.length → frame p P = none) ∧
    (P.length ≤ 255 → ∃ f, frame p P = some f ∧ f.length = P.length + 5 ∧
      f[0]? = some p.startShort ∧ f[1]? = some (BitVec.ofNat 8 P.length) ∧
      (∀ k (h : k < P.length), f[2 + k]? = some P[k]) ∧
      f[P.length + 2]? = some (hiByte (crc16 p P)) ∧ f[P.length + 3]? = some (loByte (crc16 p P)) ∧
      f[P.length + 4]? = some p.stop) ∧
    (255 < P.length → P.length ≤ 512 → ∃ f, frame p P = some f ∧ f.length = P.length + 6 ∧
      f[0]? = some p.startLong ∧ f[1]? = some (BitVec.ofNat 8 (P.length / 256)) ∧
      f[2]? = some (BitVec.ofNat 8 (P.length % 256)) ∧
      (∀ k (h : k < P.length), f[3 + k]? = some P[k]) ∧
      f[P.length + 3]? = some (hiByte (crc16 p P)) ∧ f[P.length + 4]? = some (loByte (crc16 p P)) ∧
      f[P.length + 5]? = some p.stop)

/-- R141 (f) (a derived rule of the spec): different payloads have different packets. -/
def Obligations.FrameIsInjective : Prop :=
  ∀ (p : Params) (P Q f : List Byte), p.wf → frame p P = some f → frame p Q = some f → P = Q

/-- R142, R143: the word of `SEND`, `arg` ignored; it frames `SB[0..SCUR)`, hands the whole packet over once, records the
accepted count `W` in `TXCNT` and in the response, empties the send buffer, and answers `OK` exactly when all was accepted.
The premise is R38 (a). That the bytes of `SB` keep their value is the model's choice (log 8; D11 makes them unspecified),
and so is where `W` comes from: the head of `txAnswers`, used up, or a draw (log 4). -/
def Obligations.SendFramesAndEmptiesTheSendBuffer : Prop :=
  (∀ w : Word40, opOf w = 0x40#8 → decodeCommand w = .ok .send) ∧
  ∀ s : State, s.rxst = .idle → s.scur.toNat ≤ 512 →
    ∃ (pkt : List Byte) (W d : Nat) (st : Status),
      frame s.params (s.sb.readRange 0 s.scur.toNat) = some pkt ∧ W ≤ pkt.length ∧ pkt.length ≤ 518 ∧
      (W = pkt.length → st = .ok) ∧ (W < pkt.length → st = .transportShortWrite) ∧
      exec .send s = .next { s with
        txcnt := BitVec.ofNat 10 W, scur := 0, status := st
        responses := s.responses ++ [{ status := st, data := BitVec.ofNat 32 W }]
        txLog := s.txLog ++ [{ packet := pkt, accepted := W }]
        txAnswers := s.txAnswers.tail, draws := d }

/-- 00_scope.md R13 (c), 43_framer.md R143: every count from 0 to the packet's length can be the transport's answer. How
an answer is prepared is the model's choice (log 4). -/
def Obligations.EveryAcceptedCountIsPossible : Prop :=
  ∀ (s : State) (pkt : List Byte) (W : Nat), s.rxst = .idle →
    frame s.params (s.sb.readRange 0 s.scur.toNat) = some pkt → W ≤ pkt.length →
    ∃ t, exec .send { s with txAnswers := W :: s.txAnswers } = .next t ∧ t.txcnt.toNat = W ∧ t.scur = 0 ∧
      t.txLog = s.txLog ++ [{ packet := pkt, accepted := W }] ∧ t.txAnswers = s.txAnswers ∧
      t.status = (if W = pkt.length then .ok else .transportShortWrite)

/-- R140, R146 (U16): a payload longer than 512 bytes has no packet, and `SEND` refuses it by the model's name
`frameHasNoValue` (log 13); R38 (a) excludes such states. -/
def Obligations.SendOfMoreThan512BytesIsRefused : Prop :=
  ∀ s : State, s.rxst = .idle → 512 < s.scur.toNat → exec .send s = .refused .frameHasNoValue

/-! ## Deframer: the function -/

/-- 44_deframer.md R161 (a derived rule of the spec, the document's round trip): deframing a framed payload, whatever
follows it, gives the payload and takes exactly the packet; the same for the non-canonical long form. -/
def Obligations.DeframeRecoversTheFramedPayload : Prop :=
  ∀ (p : Params) (P r : List Byte), p.wf → P.length ≤ 512 →
    (∀ f, frame p P = some f → deframe p (f ++ r) = .ok P f.length) ∧
    deframe p (frameLongBytes p (BitVec.ofNat 16 P.length) P (crc16 p P) p.stop ++ r) = .ok P (P.length + 6)

/-- R150, R151: every proper prefix of a packet is incomplete. -/
def Obligations.ProperPrefixOfAPacketIsIncomplete : Prop :=
  ∀ (p : Params) (P f : List Byte) (n : Nat), p.wf → frame p P = some f → n < f.length →
    deframe p (f.take n) = .incomplete

/-- R150: the bytes from index `n` on play no part in a verdict that took `n` bytes, and a verdict takes only bytes that
are there. -/
def Obligations.VerdictDependsOnlyOnTheTakenBytes : Prop :=
  ∀ (p : Params) (bs r : List Byte),
    (∀ st n, deframe p bs = .fail st n → n ≤ bs.length ∧ deframe p (bs.take n ++ r) = .fail st n) ∧
    (∀ P n, deframe p bs = .ok P n → n ≤ bs.length ∧ P.length ≤ 512 ∧ deframe p (bs.take n ++ r) = .ok P n)

/-- R163 (a), (b), (c) (a derived rule of the spec): one flipped bit in the payload or the CRC field gives
`FRAME_INTEGRITY_CRC`, in the stop marker `FRAME_INTEGRITY_STOP`, in the start marker `FRAME_BAD_START` unless it turns
one start marker into the other. -/
def Obligations.SingleFlippedBitIsReported : Prop :=
  ∀ (p : Params) (P f r : List Byte) (i k h : Nat), p.wf → p.crcPoly ≠ 0 → frame p P = some f → k < 8 →
    h = (if P.length ≤ 255 then 2 else 3) →
    (h ≤ i → i + 1 < f.length → deframe p (flipBit f i k ++ r) = .fail .frameIntegrityCrc f.length) ∧
    (i + 1 = f.length → deframe p (flipBit f i k ++ r) = .fail .frameIntegrityStop f.length) ∧
    (i = 0 → byteAt (flipBit f i k) 0 ≠ p.startShort → byteAt (flipBit f i k) 0 ≠ p.startLong →
      deframe p (flipBit f i k ++ r) = .fail .frameBadStart 1)

/-! ## Deframer: the receive operation -/

/-- R152: the word of `RECV`, `arg` ignored; it discards the previous payload, starts the receive, and neither answers nor
writes `STATUS`; the transport is not flushed. That the bytes of `PB` and `RB`, now outside their extents, keep their value
is the model's choice (log 8). -/
def Obligations.RecvStartsAReceive : Prop :=
  (∀ w : Word40, opOf w = 0x50#8 → decodeCommand w = .ok .recv) ∧
  ∀ s : State, s.rxst = .idle →
    exec .recv s = .next { s with plen := 0, pcur := 0, rcnt := 0, rxst := .receiving }

/-- R153: an `RX_BYTE` that neither fails nor completes the frame takes the oldest waiting byte and writes only
`RB[RCNT]` and `RCNT`; no response. In a state of R38 an enabled `RX_BYTE` always has a next state. That the bytes of `RB`
past `RCNT` keep their value is the model's choice (log 8). -/
def Obligations.RxByteThatDoesNotCompleteOnlyStores : Prop :=
  ∀ (s : State) (rest : List Input) (b : Byte) (bs : List Byte), BlockInv s →
    s.inputs = .rxByte :: rest → s.rxst = .receiving → s.rxBuf = b :: bs →
    ∃ t, step s = .next t ∧ t.rxBuf = bs ∧ t.rxTaken = s.rxTaken ++ [b] ∧
      (t.rxst = .receiving →
        t.rb.read s.rcnt.toNat = b ∧ (∀ a, a ≠ s.rcnt.toNat → t.rb.read a = s.rb.read a) ∧
        t.rcnt.toNat = s.rcnt.toNat + 1 ∧
        { t with rb := s.rb, rcnt := s.rcnt, rxBuf := s.rxBuf, rxTaken := s.rxTaken, inputs := s.inputs } = s)

/-- R154, R158: a first byte that is no start marker fails the receive at once with `FRAME_BAD_START`, one byte taken.
That bytes outside the extents keep their value is the model's choice (log 8). -/
def Obligations.BadStartFailsAtTheFirstByte : Prop :=
  ∀ (s : State) (rest : List Input) (b : Byte) (bs : List Byte), s.rb.wf →
    s.inputs = .rxByte :: rest → s.rxst = .receiving → s.rcnt = 0 → s.rxBuf = b :: bs →
    b ≠ s.params.startShort → b ≠ s.params.startLong →
    ∃ t, step s = .next t ∧ t.rxst = .idle ∧ t.status = .frameBadStart ∧ t.plen = 0 ∧ t.pcur = 0 ∧ t.rcnt = 0 ∧
      t.responses = s.responses ++ [{ status := .frameBadStart, data := 0 }] ∧ t.rxBuf = bs ∧
      t.rxTaken = s.rxTaken ++ [b] ∧ t.pb = s.pb ∧ (∀ a, a ≠ 0 → t.rb.read a = s.rb.read a) ∧ t.inputs = rest ∧
      OnlyReceiveSide s t

/-- R155, R158: in a long form a declared length above 512 fails the receive with `FRAME_BAD_LENGTH` in the step that
takes the third byte; a legal one does not fail there. That bytes outside the extents keep their value is the model's choice
(log 8). -/
def Obligations.BadLengthFailsAtTheThirdByte : Prop :=
  ∀ (s : State) (rest : List Input) (b : Byte) (bs : List Byte), BlockInv s →
    s.inputs = .rxByte :: rest → s.rxst = .receiving → s.rcnt = 2 → s.rxBuf = b :: bs →
    s.rb.read 0 = s.params.startLong →
    ∃ t, step s = .next t ∧ t.rxBuf = bs ∧ t.rxTaken = s.rxTaken ++ [b] ∧ t.pb = s.pb ∧
      (∀ a, a ≠ 2 → t.rb.read a = s.rb.read a) ∧ t.inputs = rest ∧ OnlyReceiveSide s t ∧
      (512 < (s.rb.read 1).toNat * 256 + b.toNat → t.rxst = .idle ∧ t.status = .frameBadLength ∧ t.plen = 0 ∧ t.pcur = 0 ∧
        t.rcnt = 0 ∧
        t.responses = s.responses ++ [{ status := .frameBadLength, data := 0 }]) ∧
      ((s.rb.read 1).toNat * 256 + b.toNat ≤ 512 → t.rxst = .receiving ∧ t.rcnt = 3 ∧ t.rb.read 2 = b ∧
        t.plen = s.plen ∧ t.pcur = s.pcur ∧ t.status = s.status ∧ t.responses = s.responses)

/-- R156, R157, R158: the step that takes the last byte of a frame checks the stop marker first, then the CRC of the
payload; on success the payload is in `PB` and `PLEN` bytes are readable, on failure none is. That bytes outside the extents
keep their old value is the model's choice (log 8). -/
def Obligations.LastByteValidatesTheFrame : Prop :=
  ∀ (s : State) (rest : List Input) (b : Byte) (bs : List Byte) (h ld : Nat), BlockInv s →
    s.inputs = .rxByte :: rest → s.rxst = .receiving → s.rxBuf = b :: bs →
    headerLen s.params (s.rb.read 0) = some h → ld = declaredLen h (s.rb.read 1) (s.rb.read 2) →
    s.rcnt.toNat + 1 = h + ld + 3 →
    ∃ t, step s = .next t ∧ t.rxst = .idle ∧ t.rcnt = 0 ∧ t.pcur = 0 ∧ t.rxBuf = bs ∧ t.rxTaken = s.rxTaken ++ [b] ∧
      (∀ a, a ≠ s.rcnt.toNat → t.rb.read a = s.rb.read a) ∧ t.inputs = rest ∧ OnlyReceiveSide s t ∧
      (b ≠ s.params.stop → t.status = .frameIntegrityStop ∧ t.plen = 0 ∧ t.pb = s.pb ∧
        t.responses = s.responses ++ [{ status := .frameIntegrityStop, data := 0 }]) ∧
      (b = s.params.stop →
        half (s.rb.read (h + ld)) (s.rb.read (h + ld + 1)) ≠ crc16 s.params (s.rb.readRange h ld) →
        t.status = .frameIntegrityCrc ∧ t.plen = 0 ∧ t.pb = s.pb ∧
        t.responses = s.responses ++ [{ status := .frameIntegrityCrc, data := 0 }]) ∧
      (b = s.params.stop →
        half (s.rb.read (h + ld)) (s.rb.read (h + ld + 1)) = crc16 s.params (s.rb.readRange h ld) →
        t.status = .ok ∧ t.plen.toNat = ld ∧
        t.responses = s.responses ++ [{ status := .ok, data := BitVec.ofNat 32 ld }] ∧
        (∀ k, k < ld → t.pb.read k = s.rb.read (h + k)) ∧ ∀ a, ld ≤ a → t.pb.read a = s.pb.read a)

/-- R159: `RX_TIMEOUT` fails a receive with `FRAME_TIMEOUT` and the writes of R158 whatever `RCNT` is, the waiting bytes
left in the transport; it has no step while idle. That the model stops there by name, and that the bytes of `PB` and `RB`
outside the extents keep their value, are its choices (log 2, log 8). -/
def Obligations.TimeoutFailsAReceiveAtAnyPoint : Prop :=
  ∀ (s : State) (rest : List Input), s.inputs = .timeout :: rest →
    (s.rxst = .receiving → step s = .next { s with
      inputs := rest, plen := 0, pcur := 0, rcnt := 0, rxst := .idle, status := .frameTimeout
      responses := s.responses ++ [{ status := .frameTimeout, data := 0 }] }) ∧
    (s.rxst = .idle → step s = .fault .timeoutNotEnabled)

/-- 60_exceptions.md R207: while receiving with a byte waiting, the byte and the timeout may each come first. -/
def Obligations.ByteAndTimeoutMayEachComeFirst : Prop :=
  ∀ (s : State) (rest : List Input), BlockInv s → s.rxst = .receiving → s.rxBuf ≠ [] →
    (∃ t, step { s with inputs := .rxByte :: rest } = .next t ∧ t.rxBuf = s.rxBuf.tail) ∧
    (∃ t, step { s with inputs := .timeout :: rest } = .next t ∧ t.rxBuf = s.rxBuf ∧ t.status = .frameTimeout)

/-- R160: while idle the block takes no byte: a frame that is delivered waits in the transport, and so does a byte that
arrives; nothing else changes. `RX_BYTE` is not enabled there (R153). That the model stops there by the name
`rxByteNotEnabled`, and that a frame is delivered in one step, are its choices (log 2, log 10). -/
def Obligations.FramesWaitWhileIdle : Prop :=
  ∀ s : State, s.rxst = .idle →
    (∀ len payload crc stop, exec (.frameShort len payload crc stop) s =
      .next { s with rxBuf := s.rxBuf ++ frameShortBytes s.params len payload crc stop }) ∧
    (∀ len payload crc stop, exec (.frameLong len payload crc stop) s =
      .next { s with rxBuf := s.rxBuf ++ frameLongBytes s.params len payload crc stop }) ∧
    (∀ b rest, s.inputs = .arrive b :: rest → step s = .next { s with inputs := rest, rxBuf := s.rxBuf ++ [b] }) ∧
    (∀ rest, s.inputs = .rxByte :: rest → step s = .fault .rxByteNotEnabled)

/-- R71, R72, R153 to R158: a well-formed frame, of either form, delivered to a receive that has taken nothing yet
completes it: `FRAME_INTEGRITY_STOP` on a wrong stop byte, else `FRAME_INTEGRITY_CRC` on a wrong CRC field, else `OK` with
the payload in `PB`; no other byte of `PB` changes, none of `RB` past the frame, and nothing of the send side. That the delivery is one step of the model and that bytes outside the extents are kept are its choices (log 10, log 8). -/
def Obligations.FrameCompletesAWaitingReceive : Prop :=
  ∀ (s : State) (payload : List Byte) (crc : Half) (stop : Byte) (i : Instr), s.params.wf → s.rb.wf → s.pb.wf →
    s.rxst = .receiving → s.rcnt = 0 → s.rxBuf = [] → i.wellFormed = true →
    ((∃ len, i = .frameShort len payload crc stop) ∨ (∃ len, i = .frameLong len payload crc stop)) →
    ∃ t f, encode s.params i = .wire f ∧ exec i s = .next t ∧
      t.rxst = .idle ∧ t.rcnt = 0 ∧ t.pcur = 0 ∧ t.rxBuf = [] ∧ t.rxTaken = s.rxTaken ++ f ∧
      (∀ a, f.length ≤ a → t.rb.read a = s.rb.read a) ∧ t.inputs = s.inputs ∧ OnlyReceiveSide s t ∧
      (stop ≠ s.params.stop → t.plen = 0 ∧ t.status = .frameIntegrityStop ∧ t.pb = s.pb ∧
        t.responses = s.responses ++ [{ status := .frameIntegrityStop, data := 0 }]) ∧
      (stop = s.params.stop → crc ≠ crc16 s.params payload → t.plen = 0 ∧ t.status = .frameIntegrityCrc ∧ t.pb = s.pb ∧
        t.responses = s.responses ++ [{ status := .frameIntegrityCrc, data := 0 }]) ∧
      (stop = s.params.stop → crc = crc16 s.params payload →
        t.plen.toNat = payload.length ∧ t.status = .ok ∧ t.pb.readRange 0 payload.length = payload ∧
        (∀ a, payload.length ≤ a → t.pb.read a = s.pb.read a) ∧
        t.responses = s.responses ++ [{ status := .ok, data := BitVec.ofNat 32 payload.length }])

/-- 00_scope.md R13 (d), R160: a frame of either form can arrive in any state of R38, idle or receiving, whatever has been
taken or waits: the delivery has a next state, and it changes only the receive side. That the delivery is one step is the
model's choice (log 10). -/
def Obligations.AFrameCanArriveAtAnyTime : Prop :=
  ∀ (s : State) (payload : List Byte) (crc : Half) (stop : Byte) (i : Instr), BlockInv s →
    ((∃ len, i = .frameShort len payload crc stop) ∨ (∃ len, i = .frameLong len payload crc stop)) →
    ∃ t f, encode s.params i = .wire f ∧ exec i s = .next t ∧ t.inputs = s.inputs ∧ OnlyReceiveSide s t ∧
      ∃ n, t.rxTaken = s.rxTaken ++ (s.rxBuf ++ f).take n ∧ t.rxBuf = (s.rxBuf ++ f).drop n

/-- R162 (a derived rule of the spec): the byte-by-byte receive and the pure function agree on whatever bytes are
delivered to a receive that has taken nothing yet. That the delivery is one step and that bytes outside the extents are kept
are the model's choices (log 10, log 15, log 8). -/
def Obligations.ReceiveAgreesWithDeframe : Prop :=
  ∀ (s : State) (bs : List Byte) (rest : List Input), s.rb.wf → s.pb.wf →
    s.inputs = .wire bs :: rest → s.rxst = .receiving → s.rcnt = 0 → s.rxBuf = [] →
    ∃ t, step s = .next t ∧ t.inputs = rest ∧ OnlyReceiveSide s t ∧ (∀ a, bs.length ≤ a → t.rb.read a = s.rb.read a) ∧
      (deframe s.params bs = .incomplete →
        t.rxst = .receiving ∧ t.rcnt.toNat = bs.length ∧ t.rb.readRange 0 bs.length = bs ∧ t.rxBuf = [] ∧
        t.rxTaken = s.rxTaken ++ bs ∧ t.responses = s.responses ∧ t.status = s.status ∧ t.pb = s.pb ∧
        t.plen = s.plen ∧ t.pcur = s.pcur) ∧
      (∀ st n, deframe s.params bs = .fail st n →
        t.rxst = .idle ∧ t.rcnt = 0 ∧ t.plen = 0 ∧ t.pcur = 0 ∧ t.status = st ∧ t.rxBuf = bs.drop n ∧
        t.rxTaken = s.rxTaken ++ bs.take n ∧ t.responses = s.responses ++ [{ status := st, data := 0 }] ∧ t.pb = s.pb) ∧
      (∀ P n, deframe s.params bs = .ok P n →
        t.rxst = .idle ∧ t.rcnt = 0 ∧ t.plen.toNat = P.length ∧ t.pcur = 0 ∧ t.status = .ok ∧ t.rxBuf = bs.drop n ∧
        t.rxTaken = s.rxTaken ++ bs.take n ∧ t.pb.readRange 0 P.length = P ∧
        (∀ a, P.length ≤ a → t.pb.read a = s.pb.read a) ∧
        t.responses = s.responses ++ [{ status := .ok, data := BitVec.ofNat 32 P.length }])

/-- R58, R153: the delivery of bytes in one step of the model is exactly their arrivals followed by as many `RX_BYTE`
events as the block takes bytes (log 10). -/
def Obligations.WireDeliveryIsItsByteEvents : Prop :=
  ∀ (s t : State) (bs : List Byte) (rest : List Input), s.inputs = .wire bs :: rest → step s = .next t →
    ∃ n, t.rxTaken.length = s.rxTaken.length + n ∧
      Sys2Proof.core.run (bs.length + n)
        { s with inputs := bs.map Input.arrive ++ (List.replicate n Input.rxByte ++ rest) } = .next t

/-- R233, R52: a receive ends: once 518 bytes have been taken or wait, delivering them leaves the block idle with exactly
one response. That the delivery is one step is the model's choice (log 10). -/
def Obligations.ReceiveEndsWithin518Bytes : Prop :=
  ∀ (s : State) (bs : List Byte) (rest : List Input), BlockInv s → s.inputs = .wire bs :: rest → s.rxst = .receiving →
    518 ≤ s.rcnt.toNat + s.rxBuf.length + bs.length →
    ∃ t r, step s = .next t ∧ t.rxst = .idle ∧ t.responses = s.responses ++ [r] ∧ t.status = r.status

/-! ## System -/

/-- 45_system.md R171, 10_state.md R30 to R37: the word of `RDSR`, `arg[31:8]` ignored; it answers register `n`, fields at their bits, zeros above; `RANGE`
for 7 to 255; it changes no state but the response (and the count of free draws when it fails). -/
def Obligations.RdsrAnswersTheRegister : Prop :=
  (∀ w : Word40, opOf w = 0x60#8 → decodeCommand w = .ok (.rdsr (w.extractLsb' 0 8))) ∧
  ∀ s : State, s.rxst = .idle →
    let answers (n : Byte) (v : Word) : Prop :=
      exec (.rdsr n) s = .next { s with responses := s.responses ++ [{ status := .ok, data := v }] }
    answers 0 (s.status.code.setWidth 32) ∧ answers 1 (s.scur.setWidth 32) ∧ answers 2 (s.plen.setWidth 32) ∧
    answers 3 (s.pcur.setWidth 32) ∧ answers 4 (s.txcnt.setWidth 32) ∧
    answers 5 (BitVec.ofNat 32 (s.params.crcInit.toNat * 65536 + s.params.crcPoly.toNat)) ∧
    answers 6 (BitVec.ofNat 32
      (s.params.stop.toNat * 65536 + s.params.startLong.toNat * 256 + s.params.startShort.toNat)) ∧
    (∀ n : Byte, 6 < n.toNat → ∃ d : Word, exec (.rdsr n) s = .next { s with
      draws := s.draws + 1, responses := s.responses ++ [{ status := .range, data := d }] })

/-- R173: `STATUS` is always the status of the most recent response that was not an `RDSR`'s: a step that emits such a
response writes its status, `RDSR` and a step that emits none leave `STATUS`, reset writes `OK`. -/
def Obligations.StatusFollowsTheLastResponse : Prop :=
  ∀ (s t : State) (x : Input) (rest : List Input), s.inputs = x :: rest → step s = .next t →
    (x = .reset → t.status = .ok ∧ t.responses = s.responses) ∧
    (∀ w, x = .command w → opOf w = 0x60#8 → t.status = s.status ∧ ∃ r, t.responses = s.responses ++ [r]) ∧
    (x ≠ .reset → (∀ w, x = .command w → opOf w ≠ 0x60#8) →
      (t.responses = s.responses ∧ t.status = s.status) ∨
      (∃ r, t.responses = s.responses ++ [r] ∧ t.status = r.status))

/-- 60_exceptions.md R208 (c), R209 (R208 is a derived rule of the spec): a command that answers `BUFFER_OVERFLOW`,
`SHORT_PAYLOAD` or `RANGE` has had no effect but on `STATUS` and the response. -/
def Obligations.RefusedCommandHasNoEffect : Prop :=
  ∀ (s t : State) (i : Instr) (r : Response), i.isCommand = true → exec i s = .next t →
    t.responses = s.responses ++ [r] →
    (r.status = .bufferOverflow ∨ r.status = .shortPayload ∨ r.status = .range) →
    { t with status := s.status, responses := s.responses, draws := s.draws } = s

/-- 20_memory.md R53, 44_deframer.md R152, 70_reset_and_hazards.md R227: a command changes no byte of `PB` or `RB`, and
only `RECV` changes `PLEN`; only `APPEND_*` changes `SB`; a receive event changes nothing of the send side. That `TXCLR` and
`SEND` leave the bytes of `SB`, and `RECV` those of `PB` and `RB`, which are then outside the extents and unspecified (R24,
D11), is the model's choice (log 8). -/
def Obligations.SendAndReceiveSidesAreIndependent : Prop :=
  (∀ (s t : State) (i : Instr), i.isCommand = true → exec i s = .next t →
    t.pb = s.pb ∧ t.rb = s.rb ∧ (i ≠ .recv → t.plen = s.plen ∧ t.rcnt = s.rcnt) ∧ (t.scur.toNat ≤ s.scur.toNat → t.sb = s.sb)) ∧
  (∀ (s t : State) (x : Input) (rest : List Input), s.inputs = x :: rest → step s = .next t →
    (∀ w, x ≠ .command w) → x ≠ .reset → t.sb = s.sb ∧ t.scur = s.scur ∧ t.txcnt = s.txcnt ∧ t.txLog = s.txLog)

/-- R35, R36, R40: no step changes `CRCCFG` or `MARKERS`. -/
def Obligations.ParametersNeverChange : Prop :=
  ∀ s t : State, step s = .next t → t.params = s.params

/-! ## Reset and invariants -/

/-- R39: the reset values the spec gives; the parameters are its defaults (general knowledge, log 5). -/
def Obligations.ResetState : Prop :=
  State.reset.rxst = .idle ∧ State.reset.rcnt = 0 ∧ State.reset.status.code = 0 ∧ State.reset.scur = 0 ∧
  State.reset.plen = 0 ∧ State.reset.pcur = 0 ∧ State.reset.txcnt = 0 ∧
  State.reset.readSr 5 = some 0x00001021 ∧ State.reset.readSr 6 = some 0x00030302

/-- R220, R221: the reset event, in any state, puts the block's registers at their reset values, keeps the parameters,
answers nothing, transmits nothing and leaves the transport's waiting bytes. -/
def Obligations.ResetEventInAnyState : Prop :=
  ∀ (s : State) (rest : List Input), s.inputs = .reset :: rest →
    ∃ t, step s = .next t ∧ t.rxst = .idle ∧ t.rcnt = 0 ∧ t.status = .ok ∧ t.scur = 0 ∧ t.plen = 0 ∧ t.pcur = 0 ∧
      t.txcnt = 0 ∧ t.params = s.params ∧ t.rxBuf = s.rxBuf ∧ t.responses = s.responses ∧ t.txLog = s.txLog ∧
      t.rxTaken = s.rxTaken ∧ t.inputs = rest

/-- R38: the invariants hold after reset. -/
def Obligations.InvHoldsAtReset : Prop := BlockInv State.reset

/-- R38: every step keeps the invariants, from every state that has them. -/
def Obligations.EveryStepKeepsInv : Prop :=
  ∀ s t : State, BlockInv s → step s = .next t → BlockInv t

/-- R209, R210, R205: in a state of R38 the block never stops by itself: the only stops are those where the environment
asks for what has no step. The names of those stops are the model's choice (log 1, log 2). -/
def Obligations.OnlyTheEnvironmentCanStopTheBlock : Prop :=
  ∀ s : State, BlockInv s →
    (∃ t, step s = .next t) ∨ (∃ r, step s = .fault r ∧ EnvironmentStop s r)

/-- R24 (a derived rule of the spec), U8: bytes outside the valid extents never matter: two states that differ only in
such bytes (both meeting R38) take steps that no observer tells apart. So the byte an unlisted index reads as (log 7) and the old bytes kept
(log 8) are no claim about the block. -/
def Obligations.UnreadableBytesNeverMatter : Prop :=
  ∀ s t : State, BlockInv s → BlockInv t → SameReadable s t → SameOutcome (step s) (step t)

/-! ## Whole exchanges -/

/-- R134 (a derived rule of the spec): any sequence of appends into an empty send buffer, sent whole, delivered back and
read with the same types, comes back value by value; and then nothing is left to read. How the transport's answer is
prepared and that the delivery is one step are the model's choices (log 4, log 10). -/
def Obligations.SentIntegersComeBack : Prop :=
  ∀ (s : State) (items : List (IntType × Word)) (rest : List Input) (a : Nat) (as : List Nat), BlockInv s →
    s.rxst = .idle → s.scur = 0 → s.rxBuf = [] → s.txAnswers = a :: as → 518 ≤ a →
    (items.map fun it => it.1.width).sum ≤ 512 →
    ∃ (pkt : List Byte) (t : State) (rs : List Response),
      Sys2Proof.core.run (items.length + 3 + items.length)
        { s with inputs := items.map (fun it => give s (it.1.appendOf it.2)) ++
            ([give s .send, give s .recv, .wire pkt] ++ (items.map (fun it => give s it.1.getOf) ++ rest)) } = .next t ∧
      t.txLog = s.txLog ++ [{ packet := pkt, accepted := pkt.length }] ∧ rs.length = items.length + 2 ∧
      t.responses = s.responses ++ (rs ++ items.map fun it => { status := .ok, data := it.1.valueOf it.2 }) ∧
      t.pcur = t.plen ∧ t.plen.toNat = (items.map fun it => it.1.width).sum

/-! ## Scaled pseudo-operations (host side) -/

/-- 46_scaled_pseudo.md R182: `round_nearest` is within one half of its argument, whatever the tie rule, and no other
integer is nearer. -/
def Obligations.RoundNearestIsNearest : Prop :=
  ∀ (tie : RoundTie) (y : ℚ), |(roundNearest tie y : ℚ) - y| ≤ 1 / 2 ∧
    ∀ n : Int, |(roundNearest tie y : ℚ) - y| ≤ |(n : ℚ) - y|

/-- R181, R184, R185 (a derived rule of the spec): a scaled value that is issued goes out as the word of its append with the
sign-extended operand, and what comes back is recovered within half a unit of the scale, and exactly when it is a multiple
of the unit. -/
def Obligations.ScaledRoundTripWithinHalfAUnit : Prop :=
  ∀ (tie : RoundTie) (ty : ScaledType) (x : ℚ) (scale : Nat) (i : Instr),
    appendScaled tie ty (.finite x) scale = some i →
    ∃ (it : IntType) (arg : Word) (x' : ℚ), i = it.appendOf arg ∧ ty.getOf = it.getOf ∧
      arg = (arg.setWidth (8 * it.width)).signExtend 32 ∧
      (∃ w, appendScaledWord tie ty (.finite x) scale = some w ∧ argOf w = arg ∧ decodeCommand w = .ok i) ∧
      getScaledIssue ty scale = some it.getOf ∧
      getScaled ty scale { status := .ok, data := it.valueOf arg } = .ok x' ∧ |x' - x| ≤ 1 / (2 * scale) ∧
      ((∃ n : Int, x * scale = n) → x' = x)

/-! ## Fairness -/

/-- 70_reset_and_hazards.md R233, 60_exceptions.md R213, 00_scope.md R13 (e) (R233 is a derived rule of the spec): under the
fairness assumption on the timer, and no other, every receive ends: until then it answers nothing, and it ends with exactly
one response, whose status is `STATUS`, or, by the reset event, with none. The form of a run without end is the model's
choice (log 19). -/
def Obligations.EveryReceiveEndsWhenTheTimerIsFair : Prop :=
  ∀ (env : Nat → Input) (σ : Nat → State) (n : Nat), UnboundedRun env σ → TimerFair env σ → (σ n).rxst = .receiving →
    ∃ m, n ≤ m ∧
      (∀ k, n ≤ k → k ≤ m → (σ k).rxst = .receiving ∧ (σ k).responses = (σ n).responses) ∧
      (σ (m + 1)).rxst = .idle ∧
      ((env m = .reset ∧ (σ (m + 1)).responses = (σ n).responses) ∨
        (env m ≠ .reset ∧ ∃ r, (σ (m + 1)).responses = (σ n).responses ++ [r] ∧ (σ (m + 1)).status = r.status))
end

