-- ==== Sys2Proof/Laws/Bits.lean ====
section
/-! SUPPORT. The small laws of the bit-field helpers: two-byte values, the fields of a command word, and the body of a
frame, each read back as it was written. -/

namespace Sys2Proof

/-! ## Two bytes -/

theorem toNat_half (a b : Byte) : (half a b).toNat = a.toNat * 256 + b.toNat := by
  have h := BitVec.toNat_append a b
  rw [← Nat.shiftLeft_add_eq_or_of_lt b.isLt, Nat.shiftLeft_eq] at h
  exact h

theorem toNat_hiByte (c : Half) : (hiByte c).toNat = c.toNat / 256 := by
  have := c.isLt
  simp only [hiByte, BitVec.extractLsb'_toNat, Nat.shiftRight_eq_div_pow]
  omega

theorem toNat_loByte (c : Half) : (loByte c).toNat = c.toNat % 256 := by
  simp [loByte, BitVec.extractLsb'_toNat]

@[simp] theorem hiByte_half (a b : Byte) : hiByte (half a b) = a := by
  apply BitVec.eq_of_toNat_eq
  rw [toNat_hiByte, toNat_half]
  have := b.isLt
  omega

@[simp] theorem loByte_half (a b : Byte) : loByte (half a b) = b := by
  apply BitVec.eq_of_toNat_eq
  rw [toNat_loByte, toNat_half]
  have := b.isLt
  omega

@[simp] theorem half_hiByte_loByte (c : Half) : half (hiByte c) (loByte c) = c := by
  apply BitVec.eq_of_toNat_eq
  rw [toNat_half, toNat_hiByte, toNat_loByte]
  omega

theorem half_inj {a b c d : Byte} (h : half a b = half c d) : a = c ∧ b = d := by
  have h1 := congrArg hiByte h
  have h2 := congrArg loByte h
  simpa using And.intro h1 h2

/-! ## Command words -/

theorem toNat_commandWord (op : Byte) (arg : Word) : (commandWord op arg).toNat = op.toNat * 4294967296 + arg.toNat := by
  have h := BitVec.toNat_append op arg
  rw [← Nat.shiftLeft_add_eq_or_of_lt arg.isLt, Nat.shiftLeft_eq] at h
  exact h

theorem toNat_opOf (w : Word40) : (opOf w).toNat = w.toNat / 4294967296 := by
  have := w.isLt
  simp only [opOf, BitVec.extractLsb'_toNat, Nat.shiftRight_eq_div_pow]
  omega

theorem toNat_argOf (w : Word40) : (argOf w).toNat = w.toNat % 4294967296 := by
  simp [argOf, BitVec.extractLsb'_toNat]

@[simp] theorem opOf_commandWord (op : Byte) (arg : Word) : opOf (commandWord op arg) = op := by
  apply BitVec.eq_of_toNat_eq
  rw [toNat_opOf, toNat_commandWord]
  have := arg.isLt
  omega

@[simp] theorem argOf_commandWord (op : Byte) (arg : Word) : argOf (commandWord op arg) = arg := by
  apply BitVec.eq_of_toNat_eq
  rw [toNat_argOf, toNat_commandWord]
  have := arg.isLt
  omega

@[simp] theorem commandWord_opOf_argOf (w : Word40) : commandWord (opOf w) (argOf w) = w := by
  apply BitVec.eq_of_toNat_eq
  rw [toNat_commandWord, toNat_opOf, toNat_argOf]
  omega

theorem decodeCommand_commandWord (op : Byte) (arg : Word) : decodeCommand (commandWord op arg) = decodeOp op arg := by
  simp [decodeCommand]

/-! ## The range operand -/

/-- The number an `arg` of format `R` stands for. -/
theorem toNat_rangeArg (buf : BufSel) (off len : Cursor) :
    (rangeArg buf off len).toNat = (match buf with | .sb => 0 | .pb => 2147483648) + off.toNat * 65536 + len.toNat := by
  have h6 := BitVec.toNat_append (0#6) len
  rw [← Nat.shiftLeft_add_eq_or_of_lt len.isLt, Nat.shiftLeft_eq] at h6
  have ho := BitVec.toNat_append off (0#6 ++ len)
  rw [← Nat.shiftLeft_add_eq_or_of_lt (0#6 ++ len).isLt, Nat.shiftLeft_eq] at ho
  have h5 := BitVec.toNat_append (0#5) (off ++ (0#6 ++ len))
  rw [← Nat.shiftLeft_add_eq_or_of_lt (off ++ (0#6 ++ len)).isLt, Nat.shiftLeft_eq] at h5
  unfold rangeArg
  cases buf
  · have hb := BitVec.toNat_append (0#1) (0#5 ++ (off ++ (0#6 ++ len)))
    rw [← Nat.shiftLeft_add_eq_or_of_lt (0#5 ++ (off ++ (0#6 ++ len))).isLt, Nat.shiftLeft_eq, h5, ho, h6] at hb
    refine hb.trans ?_
    simp
  · have hb := BitVec.toNat_append (1#1) (0#5 ++ (off ++ (0#6 ++ len)))
    rw [← Nat.shiftLeft_add_eq_or_of_lt (0#5 ++ (off ++ (0#6 ++ len))).isLt, Nat.shiftLeft_eq, h5, ho, h6] at hb
    refine hb.trans ?_
    simp
    omega

@[simp] theorem lenOf_rangeArg (buf : BufSel) (off len : Cursor) : lenOf (rangeArg buf off len) = len := by
  apply BitVec.eq_of_toNat_eq
  have := len.isLt
  have := off.isLt
  simp only [lenOf, BitVec.extractLsb'_toNat, toNat_rangeArg, Nat.shiftRight_eq_div_pow]
  cases buf <;> simp <;> omega

@[simp] theorem offOf_rangeArg (buf : BufSel) (off len : Cursor) : offOf (rangeArg buf off len) = off := by
  apply BitVec.eq_of_toNat_eq
  have := len.isLt
  have := off.isLt
  simp only [offOf, BitVec.extractLsb'_toNat, toNat_rangeArg, Nat.shiftRight_eq_div_pow]
  cases buf <;> simp <;> omega

@[simp] theorem bufOf_rangeArg (buf : BufSel) (off len : Cursor) : bufOf (rangeArg buf off len) = buf := by
  have := len.isLt
  have := off.isLt
  unfold bufOf
  split
  · rename_i h
    have h := congrArg BitVec.toNat h
    simp only [BitVec.extractLsb'_toNat, toNat_rangeArg, Nat.shiftRight_eq_div_pow] at h
    cases buf
    · simp at h
      omega
    · rfl
  · rename_i h
    cases buf
    · rfl
    · exact absurd (BitVec.eq_of_toNat_eq (by
        simp only [BitVec.extractLsb'_toNat, toNat_rangeArg, Nat.shiftRight_eq_div_pow]
        simp
        omega)) h

/-! ## Frames -/

/-- The body of a frame, split at its payload's length, gives its fields and what follows (R71, R72). -/
theorem splitBody_frameBody (payload : List Byte) (crc : Half) (stop : Byte) (rest : List Byte) :
    splitBody payload.length (frameBody payload crc stop ++ rest) = .ok (payload, crc, stop, rest) := by
  simp [splitBody, frameBody]

/-- Whatever splits is the body of a frame and what follows. -/
theorem eq_of_splitBody {n : Nat} {bs payload rest : List Byte} {crc : Half} {stop : Byte}
    (h : splitBody n bs = .ok (payload, crc, stop, rest)) :
    payload.length = n ∧ bs = frameBody payload crc stop ++ rest := by
  unfold splitBody at h
  split at h
  · rename_i c1 c0 st r hd
    cases h
    have hn : n ≤ bs.length := by
      by_contra hc
      rw [List.drop_eq_nil_of_le (by omega)] at hd
      cases hd
    refine ⟨by simp [hn], ?_⟩
    conv_lhs => rw [← List.take_append_drop n bs, hd]
    simp [frameBody]
  · cases h

end Sys2Proof
end

