-- ==== Sys2Proof/Laws/Memory.lean ====
section
/-! SUPPORT. The laws of byte spaces: a read after a write, what a write leaves alone, and that every operation keeps
the canonical form and the capacity (20_memory.md R52 to R54, R60). -/

namespace Sys2Proof.Machine

@[simp] theorem Memory.read_nil (a : Nat) : Memory.read [] a = Memory.unwritten := rfl

theorem Memory.read_cons (k : Nat) (b : Byte) (m : Memory) (a : Nat) :
    Memory.read ((k, b) :: m) a = if k = a then b else Memory.read m a := rfl

/-- An index below every listed one is not listed. -/
theorem Memory.read_of_lt (m : Memory) (a : Nat) (h : ∀ c ∈ m, a < c.1) : m.read a = Memory.unwritten := by
  induction m with
  | nil => rfl
  | cons c m ih =>
    obtain ⟨k, b⟩ := c
    have hk : a < k := h (k, b) (by simp)
    rw [Memory.read_cons, if_neg (by omega)]
    exact ih fun c hc => h c (by simp [hc])

theorem Memory.wf_nil : Memory.wf [] := by simp [Memory.wf]

theorem Memory.wf_tail {c : Host.Cell} {m : Memory} (h : Memory.wf (c :: m)) : Memory.wf m :=
  ⟨(List.pairwise_cons.1 h.1).2, fun x hx => h.2 x (by simp [hx])⟩

theorem Memory.lt_of_wf {c : Host.Cell} {m : Memory} (h : Memory.wf (c :: m)) : ∀ x ∈ m, c.1 < x.1 :=
  (List.pairwise_cons.1 h.1).1

/-- Writing lists no index but the written one and those listed before. -/
theorem Memory.mem_write {m : Memory} {a : Nat} {b : Byte} {c : Host.Cell} (h : c ∈ m.write a b) :
    c = (a, b) ∨ c ∈ m := by
  induction m with
  | nil =>
    unfold Memory.write at h
    split at h <;> simp_all
  | cons x m ih =>
    obtain ⟨k, v⟩ := x
    unfold Memory.write at h
    split at h
    · split at h <;> simp_all
    · split at h
      · split at h
        · exact .inr (by simp [h])
        · rcases List.mem_cons.1 h with h | h <;> simp [h]
      · rcases List.mem_cons.1 h with h | h
        · exact .inr (by simp [h])
        · rcases ih h with h | h <;> simp [h]

theorem Memory.within_write {cap : Nat} {m : Memory} {a : Nat} {b : Byte} (h : m.within cap) (ha : a < cap) :
    (m.write a b).within cap := by
  intro c hc
  rcases Memory.mem_write hc with rfl | hc
  · exact ha
  · exact h c hc

/-- A write keeps the canonical form. -/
theorem Memory.wf_write {m : Memory} (h : m.wf) (a : Nat) (b : Byte) : (m.write a b).wf := by
  induction m with
  | nil =>
    unfold Memory.write
    split
    · exact h
    · simp_all [Memory.wf]
  | cons x m ih =>
    obtain ⟨k, v⟩ := x
    have hlt := Memory.lt_of_wf h
    have hm := Memory.wf_tail h
    have hv : v ≠ Memory.unwritten := h.2 (k, v) (by simp)
    unfold Memory.write
    split
    · rename_i hak
      split
      · exact h
      · rename_i hb
        refine ⟨List.pairwise_cons.2 ⟨fun c hc => ?_, h.1⟩, fun c hc => ?_⟩
        · rcases List.mem_cons.1 hc with rfl | hc
          · exact hak
          · exact lt_trans hak (hlt c hc)
        · rcases List.mem_cons.1 hc with rfl | hc
          · exact hb
          · exact h.2 c hc
    · split
      · rename_i hak
        subst hak
        split
        · exact hm
        · rename_i hb
          refine ⟨List.pairwise_cons.2 ⟨fun c hc => hlt c hc, hm.1⟩, fun c hc => ?_⟩
          rcases List.mem_cons.1 hc with rfl | hc
          · exact hb
          · exact hm.2 c hc
      · have hw := ih hm
        refine ⟨List.pairwise_cons.2 ⟨fun c hc => ?_, hw.1⟩, fun c hc => ?_⟩
        · rcases Memory.mem_write hc with rfl | hc
          · show k < a
            omega
          · exact hlt c hc
        · rcases List.mem_cons.1 hc with rfl | hc
          · exact hv
          · exact hw.2 c hc

/-- A read after a write of the same index gives the byte written. -/
theorem Memory.read_write_same {m : Memory} (h : m.wf) (a : Nat) (b : Byte) : (m.write a b).read a = b := by
  induction m with
  | nil => unfold Memory.write; split <;> simp_all [Memory.read]
  | cons x m ih =>
    obtain ⟨k, v⟩ := x
    have hlt := Memory.lt_of_wf h
    unfold Memory.write
    split
    · rename_i hak
      split
      · rename_i hb
        rw [hb]
        exact Memory.read_of_lt _ _ fun c hc => by
          rcases List.mem_cons.1 hc with rfl | hc
          · exact hak
          · exact lt_trans hak (hlt c hc)
      · simp [Memory.read_cons]
    · split
      · rename_i hak
        subst hak
        split
        · rename_i hb
          rw [hb]
          exact Memory.read_of_lt _ _ hlt
        · simp [Memory.read_cons]
      · rw [Memory.read_cons, if_neg (by omega)]
        exact ih (Memory.wf_tail h)

/-- A write leaves every other index alone. -/
theorem Memory.read_write_other (m : Memory) {a c : Nat} (b : Byte) (h : c ≠ a) : (m.write a b).read c = m.read c := by
  induction m with
  | nil => unfold Memory.write; split <;> simp [Memory.read, Ne.symm h]
  | cons x m ih =>
    obtain ⟨k, v⟩ := x
    unfold Memory.write
    split
    · split <;> simp [Memory.read_cons, Ne.symm h]
    · split
      · rename_i hak
        subst hak
        split <;> simp [Memory.read_cons, Ne.symm h]
      · simp only [Memory.read_cons, ih]

/-- Both at once. -/
theorem Memory.read_write {m : Memory} (h : m.wf) (a c : Nat) (b : Byte) :
    (m.write a b).read c = if c = a then b else m.read c := by
  split
  · rename_i hc
    rw [hc, Memory.read_write_same h]
  · exact Memory.read_write_other m b ‹_›

/-! ## Ranges -/

@[simp] theorem Memory.length_readRange (m : Memory) (a n : Nat) : (m.readRange a n).length = n := by
  simp [Memory.readRange]

@[simp] theorem Memory.getElem_readRange (m : Memory) (a n i : Nat) (h : i < (m.readRange a n).length) :
    (m.readRange a n)[i] = m.read (a + i) := by
  simp [Memory.readRange]

theorem Memory.readRange_congr {m m' : Memory} {a n : Nat} (h : ∀ i, a ≤ i → i < a + n → m.read i = m'.read i) :
    m.readRange a n = m'.readRange a n := by
  apply List.ext_getElem (by simp)
  intro i h1 h2
  simp only [Memory.getElem_readRange]
  rw [Memory.length_readRange] at h1
  exact h _ (by omega) (by omega)

theorem Memory.wf_writeRange {m : Memory} (h : m.wf) (a : Nat) (bs : List Byte) : (m.writeRange a bs).wf := by
  induction bs generalizing m a with
  | nil => exact h
  | cons b bs ih => exact ih (Memory.wf_write h a b) (a + 1)

theorem Memory.within_writeRange {cap : Nat} {m : Memory} (h : m.within cap) (a : Nat) (bs : List Byte)
    (ha : a + bs.length ≤ cap) : (m.writeRange a bs).within cap := by
  induction bs generalizing m a with
  | nil => exact h
  | cons b bs ih =>
    simp only [List.length_cons] at ha
    exact ih (Memory.within_write h (by omega)) (a + 1) (by omega)

/-- Writing a range leaves every index outside it alone. -/
theorem Memory.read_writeRange_outside (m : Memory) (a : Nat) (bs : List Byte) (c : Nat)
    (h : c < a ∨ a + bs.length ≤ c) : (m.writeRange a bs).read c = m.read c := by
  induction bs generalizing m a with
  | nil => rfl
  | cons b bs ih =>
    simp only [List.length_cons] at h
    rw [Memory.writeRange, ih _ _ (by omega), Memory.read_write_other _ _ (by omega)]

/-- Inside the range written, the bytes written are read. -/
theorem Memory.read_writeRange_inside {m : Memory} (hm : m.wf) (a : Nat) (bs : List Byte) (k : Nat) (h : k < bs.length) :
    (m.writeRange a bs).read (a + k) = bs[k] := by
  induction bs generalizing m a k with
  | nil => simp at h
  | cons b bs ih =>
    rw [Memory.writeRange]
    cases k with
    | zero =>
      rw [Memory.read_writeRange_outside _ _ _ _ (by omega), Nat.add_zero, Memory.read_write_same hm]
      rfl
    | succ k =>
      have hk : k < bs.length := by simpa using h
      have := ih (Memory.wf_write hm a b) (a + 1) k hk
      rw [show a + (k + 1) = a + 1 + k by omega, this]
      rfl

theorem Memory.fetch_eq_some {m : Memory} {cap a n : Nat} (h : a + n ≤ cap) : m.fetch cap a n = some (m.readRange a n) :=
  if_pos h

theorem Memory.fetch_eq_none {m : Memory} {cap a n : Nat} (h : ¬ a + n ≤ cap) : m.fetch cap a n = none := if_neg h

end Sys2Proof.Machine
end

