-- ==== Sys2Proof/Laws/State.lean ====
section
/-! SUPPORT. One lemma for each field and each named update of State, true by unfolding: no later proof unfolds a record
update. -/

namespace Sys2Proof.Machine

/-! ## `State.respond` -/

@[simp] theorem State.respond_sb (s : State) (st : Status) (d : Word) : (s.respond st d).sb = s.sb := rfl
@[simp] theorem State.respond_pb (s : State) (st : Status) (d : Word) : (s.respond st d).pb = s.pb := rfl
@[simp] theorem State.respond_rb (s : State) (st : Status) (d : Word) : (s.respond st d).rb = s.rb := rfl
@[simp] theorem State.respond_rxst (s : State) (st : Status) (d : Word) : (s.respond st d).rxst = s.rxst := rfl
@[simp] theorem State.respond_rcnt (s : State) (st : Status) (d : Word) : (s.respond st d).rcnt = s.rcnt := rfl
@[simp] theorem State.respond_status (s : State) (st : Status) (d : Word) : (s.respond st d).status = s.status := rfl
@[simp] theorem State.respond_scur (s : State) (st : Status) (d : Word) : (s.respond st d).scur = s.scur := rfl
@[simp] theorem State.respond_plen (s : State) (st : Status) (d : Word) : (s.respond st d).plen = s.plen := rfl
@[simp] theorem State.respond_pcur (s : State) (st : Status) (d : Word) : (s.respond st d).pcur = s.pcur := rfl
@[simp] theorem State.respond_txcnt (s : State) (st : Status) (d : Word) : (s.respond st d).txcnt = s.txcnt := rfl
@[simp] theorem State.respond_params (s : State) (st : Status) (d : Word) : (s.respond st d).params = s.params := rfl
@[simp] theorem State.respond_inputs (s : State) (st : Status) (d : Word) : (s.respond st d).inputs = s.inputs := rfl
@[simp] theorem State.respond_rxBuf (s : State) (st : Status) (d : Word) : (s.respond st d).rxBuf = s.rxBuf := rfl
@[simp] theorem State.respond_txAnswers (s : State) (st : Status) (d : Word) : (s.respond st d).txAnswers = s.txAnswers := rfl
@[simp] theorem State.respond_draws (s : State) (st : Status) (d : Word) : (s.respond st d).draws = s.draws := rfl
@[simp] theorem State.respond_responses (s : State) (st : Status) (d : Word) : (s.respond st d).responses = s.responses ++ [{ status := st, data := d }] := rfl
@[simp] theorem State.respond_txLog (s : State) (st : Status) (d : Word) : (s.respond st d).txLog = s.txLog := rfl
@[simp] theorem State.respond_rxTaken (s : State) (st : Status) (d : Word) : (s.respond st d).rxTaken = s.rxTaken := rfl

/-! ## `State.complete` -/

@[simp] theorem State.complete_sb (s : State) (st : Status) (d : Word) : (s.complete st d).sb = s.sb := rfl
@[simp] theorem State.complete_pb (s : State) (st : Status) (d : Word) : (s.complete st d).pb = s.pb := rfl
@[simp] theorem State.complete_rb (s : State) (st : Status) (d : Word) : (s.complete st d).rb = s.rb := rfl
@[simp] theorem State.complete_rxst (s : State) (st : Status) (d : Word) : (s.complete st d).rxst = s.rxst := rfl
@[simp] theorem State.complete_rcnt (s : State) (st : Status) (d : Word) : (s.complete st d).rcnt = s.rcnt := rfl
@[simp] theorem State.complete_status (s : State) (st : Status) (d : Word) : (s.complete st d).status = st := rfl
@[simp] theorem State.complete_scur (s : State) (st : Status) (d : Word) : (s.complete st d).scur = s.scur := rfl
@[simp] theorem State.complete_plen (s : State) (st : Status) (d : Word) : (s.complete st d).plen = s.plen := rfl
@[simp] theorem State.complete_pcur (s : State) (st : Status) (d : Word) : (s.complete st d).pcur = s.pcur := rfl
@[simp] theorem State.complete_txcnt (s : State) (st : Status) (d : Word) : (s.complete st d).txcnt = s.txcnt := rfl
@[simp] theorem State.complete_params (s : State) (st : Status) (d : Word) : (s.complete st d).params = s.params := rfl
@[simp] theorem State.complete_inputs (s : State) (st : Status) (d : Word) : (s.complete st d).inputs = s.inputs := rfl
@[simp] theorem State.complete_rxBuf (s : State) (st : Status) (d : Word) : (s.complete st d).rxBuf = s.rxBuf := rfl
@[simp] theorem State.complete_txAnswers (s : State) (st : Status) (d : Word) : (s.complete st d).txAnswers = s.txAnswers := rfl
@[simp] theorem State.complete_draws (s : State) (st : Status) (d : Word) : (s.complete st d).draws = s.draws := rfl
@[simp] theorem State.complete_responses (s : State) (st : Status) (d : Word) : (s.complete st d).responses = s.responses ++ [{ status := st, data := d }] := rfl
@[simp] theorem State.complete_txLog (s : State) (st : Status) (d : Word) : (s.complete st d).txLog = s.txLog := rfl
@[simp] theorem State.complete_rxTaken (s : State) (st : Status) (d : Word) : (s.complete st d).rxTaken = s.rxTaken := rfl

/-! ## `State.drawn` -/

@[simp] theorem State.drawn_sb (s : State) : (s.drawn).sb = s.sb := rfl
@[simp] theorem State.drawn_pb (s : State) : (s.drawn).pb = s.pb := rfl
@[simp] theorem State.drawn_rb (s : State) : (s.drawn).rb = s.rb := rfl
@[simp] theorem State.drawn_rxst (s : State) : (s.drawn).rxst = s.rxst := rfl
@[simp] theorem State.drawn_rcnt (s : State) : (s.drawn).rcnt = s.rcnt := rfl
@[simp] theorem State.drawn_status (s : State) : (s.drawn).status = s.status := rfl
@[simp] theorem State.drawn_scur (s : State) : (s.drawn).scur = s.scur := rfl
@[simp] theorem State.drawn_plen (s : State) : (s.drawn).plen = s.plen := rfl
@[simp] theorem State.drawn_pcur (s : State) : (s.drawn).pcur = s.pcur := rfl
@[simp] theorem State.drawn_txcnt (s : State) : (s.drawn).txcnt = s.txcnt := rfl
@[simp] theorem State.drawn_params (s : State) : (s.drawn).params = s.params := rfl
@[simp] theorem State.drawn_inputs (s : State) : (s.drawn).inputs = s.inputs := rfl
@[simp] theorem State.drawn_rxBuf (s : State) : (s.drawn).rxBuf = s.rxBuf := rfl
@[simp] theorem State.drawn_txAnswers (s : State) : (s.drawn).txAnswers = s.txAnswers := rfl
@[simp] theorem State.drawn_draws (s : State) : (s.drawn).draws = s.draws + 1 := rfl
@[simp] theorem State.drawn_responses (s : State) : (s.drawn).responses = s.responses := rfl
@[simp] theorem State.drawn_txLog (s : State) : (s.drawn).txLog = s.txLog := rfl
@[simp] theorem State.drawn_rxTaken (s : State) : (s.drawn).rxTaken = s.rxTaken := rfl

/-! ## `State.raise` -/

@[simp] theorem State.raise_sb (s : State) (st : Status) : (s.raise st).sb = s.sb := rfl
@[simp] theorem State.raise_pb (s : State) (st : Status) : (s.raise st).pb = s.pb := rfl
@[simp] theorem State.raise_rb (s : State) (st : Status) : (s.raise st).rb = s.rb := rfl
@[simp] theorem State.raise_rxst (s : State) (st : Status) : (s.raise st).rxst = s.rxst := rfl
@[simp] theorem State.raise_rcnt (s : State) (st : Status) : (s.raise st).rcnt = s.rcnt := rfl
@[simp] theorem State.raise_status (s : State) (st : Status) : (s.raise st).status = st := rfl
@[simp] theorem State.raise_scur (s : State) (st : Status) : (s.raise st).scur = s.scur := rfl
@[simp] theorem State.raise_plen (s : State) (st : Status) : (s.raise st).plen = s.plen := rfl
@[simp] theorem State.raise_pcur (s : State) (st : Status) : (s.raise st).pcur = s.pcur := rfl
@[simp] theorem State.raise_txcnt (s : State) (st : Status) : (s.raise st).txcnt = s.txcnt := rfl
@[simp] theorem State.raise_params (s : State) (st : Status) : (s.raise st).params = s.params := rfl
@[simp] theorem State.raise_inputs (s : State) (st : Status) : (s.raise st).inputs = s.inputs := rfl
@[simp] theorem State.raise_rxBuf (s : State) (st : Status) : (s.raise st).rxBuf = s.rxBuf := rfl
@[simp] theorem State.raise_txAnswers (s : State) (st : Status) : (s.raise st).txAnswers = s.txAnswers := rfl
@[simp] theorem State.raise_draws (s : State) (st : Status) : (s.raise st).draws = s.draws + 1 := rfl
@[simp] theorem State.raise_responses (s : State) (st : Status) : (s.raise st).responses = s.responses ++ [{ status := st, data := s.unspecifiedData }] := rfl
@[simp] theorem State.raise_txLog (s : State) (st : Status) : (s.raise st).txLog = s.txLog := rfl
@[simp] theorem State.raise_rxTaken (s : State) (st : Status) : (s.raise st).rxTaken = s.rxTaken := rfl

/-! ## `State.failReceive` -/

@[simp] theorem State.failReceive_sb (s : State) (st : Status) : (s.failReceive st).sb = s.sb := rfl
@[simp] theorem State.failReceive_pb (s : State) (st : Status) : (s.failReceive st).pb = s.pb := rfl
@[simp] theorem State.failReceive_rb (s : State) (st : Status) : (s.failReceive st).rb = s.rb := rfl
@[simp] theorem State.failReceive_rxst (s : State) (st : Status) : (s.failReceive st).rxst = .idle := rfl
@[simp] theorem State.failReceive_rcnt (s : State) (st : Status) : (s.failReceive st).rcnt = 0 := rfl
@[simp] theorem State.failReceive_status (s : State) (st : Status) : (s.failReceive st).status = st := rfl
@[simp] theorem State.failReceive_scur (s : State) (st : Status) : (s.failReceive st).scur = s.scur := rfl
@[simp] theorem State.failReceive_plen (s : State) (st : Status) : (s.failReceive st).plen = 0 := rfl
@[simp] theorem State.failReceive_pcur (s : State) (st : Status) : (s.failReceive st).pcur = 0 := rfl
@[simp] theorem State.failReceive_txcnt (s : State) (st : Status) : (s.failReceive st).txcnt = s.txcnt := rfl
@[simp] theorem State.failReceive_params (s : State) (st : Status) : (s.failReceive st).params = s.params := rfl
@[simp] theorem State.failReceive_inputs (s : State) (st : Status) : (s.failReceive st).inputs = s.inputs := rfl
@[simp] theorem State.failReceive_rxBuf (s : State) (st : Status) : (s.failReceive st).rxBuf = s.rxBuf := rfl
@[simp] theorem State.failReceive_txAnswers (s : State) (st : Status) : (s.failReceive st).txAnswers = s.txAnswers := rfl
@[simp] theorem State.failReceive_draws (s : State) (st : Status) : (s.failReceive st).draws = s.draws := rfl
@[simp] theorem State.failReceive_responses (s : State) (st : Status) : (s.failReceive st).responses = s.responses ++ [{ status := st, data := 0 }] := rfl
@[simp] theorem State.failReceive_txLog (s : State) (st : Status) : (s.failReceive st).txLog = s.txLog := rfl
@[simp] theorem State.failReceive_rxTaken (s : State) (st : Status) : (s.failReceive st).rxTaken = s.rxTaken := rfl

/-! ## `State.txWrite` -/

@[simp] theorem State.txWrite_sb (s : State) (pkt : List Byte) : (s.txWrite pkt).sb = s.sb := rfl
@[simp] theorem State.txWrite_pb (s : State) (pkt : List Byte) : (s.txWrite pkt).pb = s.pb := rfl
@[simp] theorem State.txWrite_rb (s : State) (pkt : List Byte) : (s.txWrite pkt).rb = s.rb := rfl
@[simp] theorem State.txWrite_rxst (s : State) (pkt : List Byte) : (s.txWrite pkt).rxst = s.rxst := rfl
@[simp] theorem State.txWrite_rcnt (s : State) (pkt : List Byte) : (s.txWrite pkt).rcnt = s.rcnt := rfl
@[simp] theorem State.txWrite_status (s : State) (pkt : List Byte) : (s.txWrite pkt).status = s.status := rfl
@[simp] theorem State.txWrite_scur (s : State) (pkt : List Byte) : (s.txWrite pkt).scur = s.scur := rfl
@[simp] theorem State.txWrite_plen (s : State) (pkt : List Byte) : (s.txWrite pkt).plen = s.plen := rfl
@[simp] theorem State.txWrite_pcur (s : State) (pkt : List Byte) : (s.txWrite pkt).pcur = s.pcur := rfl
@[simp] theorem State.txWrite_txcnt (s : State) (pkt : List Byte) : (s.txWrite pkt).txcnt = s.txcnt := rfl
@[simp] theorem State.txWrite_params (s : State) (pkt : List Byte) : (s.txWrite pkt).params = s.params := rfl
@[simp] theorem State.txWrite_inputs (s : State) (pkt : List Byte) : (s.txWrite pkt).inputs = s.inputs := rfl
@[simp] theorem State.txWrite_rxBuf (s : State) (pkt : List Byte) : (s.txWrite pkt).rxBuf = s.rxBuf := rfl
@[simp] theorem State.txWrite_txAnswers (s : State) (pkt : List Byte) : (s.txWrite pkt).txAnswers = s.txAnswers.tail := rfl
@[simp] theorem State.txWrite_draws (s : State) (pkt : List Byte) : (s.txWrite pkt).draws = if s.txAnswers.isEmpty then s.draws + 1 else s.draws := rfl
@[simp] theorem State.txWrite_responses (s : State) (pkt : List Byte) : (s.txWrite pkt).responses = s.responses := rfl
@[simp] theorem State.txWrite_txLog (s : State) (pkt : List Byte) : (s.txWrite pkt).txLog = s.txLog ++ [{ packet := pkt, accepted := s.txAccept pkt.length }] := rfl
@[simp] theorem State.txWrite_rxTaken (s : State) (pkt : List Byte) : (s.txWrite pkt).rxTaken = s.rxTaken := rfl

/-! ## `State.finishSend` -/

@[simp] theorem State.finishSend_sb (s : State) (n w : Nat) : (s.finishSend n w).sb = s.sb := rfl
@[simp] theorem State.finishSend_pb (s : State) (n w : Nat) : (s.finishSend n w).pb = s.pb := rfl
@[simp] theorem State.finishSend_rb (s : State) (n w : Nat) : (s.finishSend n w).rb = s.rb := rfl
@[simp] theorem State.finishSend_rxst (s : State) (n w : Nat) : (s.finishSend n w).rxst = s.rxst := rfl
@[simp] theorem State.finishSend_rcnt (s : State) (n w : Nat) : (s.finishSend n w).rcnt = s.rcnt := rfl
@[simp] theorem State.finishSend_status (s : State) (n w : Nat) : (s.finishSend n w).status = if w = n then .ok else .transportShortWrite := rfl
@[simp] theorem State.finishSend_scur (s : State) (n w : Nat) : (s.finishSend n w).scur = 0 := rfl
@[simp] theorem State.finishSend_plen (s : State) (n w : Nat) : (s.finishSend n w).plen = s.plen := rfl
@[simp] theorem State.finishSend_pcur (s : State) (n w : Nat) : (s.finishSend n w).pcur = s.pcur := rfl
@[simp] theorem State.finishSend_txcnt (s : State) (n w : Nat) : (s.finishSend n w).txcnt = BitVec.ofNat 10 w := rfl
@[simp] theorem State.finishSend_params (s : State) (n w : Nat) : (s.finishSend n w).params = s.params := rfl
@[simp] theorem State.finishSend_inputs (s : State) (n w : Nat) : (s.finishSend n w).inputs = s.inputs := rfl
@[simp] theorem State.finishSend_rxBuf (s : State) (n w : Nat) : (s.finishSend n w).rxBuf = s.rxBuf := rfl
@[simp] theorem State.finishSend_txAnswers (s : State) (n w : Nat) : (s.finishSend n w).txAnswers = s.txAnswers := rfl
@[simp] theorem State.finishSend_draws (s : State) (n w : Nat) : (s.finishSend n w).draws = s.draws := rfl
@[simp] theorem State.finishSend_responses (s : State) (n w : Nat) : (s.finishSend n w).responses = s.responses ++ [{ status := if w = n then .ok else .transportShortWrite, data := BitVec.ofNat 32 w }] := rfl
@[simp] theorem State.finishSend_txLog (s : State) (n w : Nat) : (s.finishSend n w).txLog = s.txLog := rfl
@[simp] theorem State.finishSend_rxTaken (s : State) (n w : Nat) : (s.finishSend n w).rxTaken = s.rxTaken := rfl

/-! ## `State.receiveOk` -/

@[simp] theorem State.receiveOk_sb (s : State) (h ld : Nat) : (s.receiveOk h ld).sb = s.sb := rfl
@[simp] theorem State.receiveOk_pb (s : State) (h ld : Nat) : (s.receiveOk h ld).pb = s.pb.writeRange 0 (s.rb.readRange h ld) := rfl
@[simp] theorem State.receiveOk_rb (s : State) (h ld : Nat) : (s.receiveOk h ld).rb = s.rb := rfl
@[simp] theorem State.receiveOk_rxst (s : State) (h ld : Nat) : (s.receiveOk h ld).rxst = .idle := rfl
@[simp] theorem State.receiveOk_rcnt (s : State) (h ld : Nat) : (s.receiveOk h ld).rcnt = 0 := rfl
@[simp] theorem State.receiveOk_status (s : State) (h ld : Nat) : (s.receiveOk h ld).status = .ok := rfl
@[simp] theorem State.receiveOk_scur (s : State) (h ld : Nat) : (s.receiveOk h ld).scur = s.scur := rfl
@[simp] theorem State.receiveOk_plen (s : State) (h ld : Nat) : (s.receiveOk h ld).plen = BitVec.ofNat 10 ld := rfl
@[simp] theorem State.receiveOk_pcur (s : State) (h ld : Nat) : (s.receiveOk h ld).pcur = 0 := rfl
@[simp] theorem State.receiveOk_txcnt (s : State) (h ld : Nat) : (s.receiveOk h ld).txcnt = s.txcnt := rfl
@[simp] theorem State.receiveOk_params (s : State) (h ld : Nat) : (s.receiveOk h ld).params = s.params := rfl
@[simp] theorem State.receiveOk_inputs (s : State) (h ld : Nat) : (s.receiveOk h ld).inputs = s.inputs := rfl
@[simp] theorem State.receiveOk_rxBuf (s : State) (h ld : Nat) : (s.receiveOk h ld).rxBuf = s.rxBuf := rfl
@[simp] theorem State.receiveOk_txAnswers (s : State) (h ld : Nat) : (s.receiveOk h ld).txAnswers = s.txAnswers := rfl
@[simp] theorem State.receiveOk_draws (s : State) (h ld : Nat) : (s.receiveOk h ld).draws = s.draws := rfl
@[simp] theorem State.receiveOk_responses (s : State) (h ld : Nat) : (s.receiveOk h ld).responses = s.responses ++ [{ status := .ok, data := BitVec.ofNat 32 ld }] := rfl
@[simp] theorem State.receiveOk_txLog (s : State) (h ld : Nat) : (s.receiveOk h ld).txLog = s.txLog := rfl
@[simp] theorem State.receiveOk_rxTaken (s : State) (h ld : Nat) : (s.receiveOk h ld).rxTaken = s.rxTaken := rfl

/-! ## `State.storeReceived` -/

@[simp] theorem State.storeReceived_sb (s : State) (b : Byte) : (s.storeReceived b).sb = s.sb := rfl
@[simp] theorem State.storeReceived_pb (s : State) (b : Byte) : (s.storeReceived b).pb = s.pb := rfl
@[simp] theorem State.storeReceived_rb (s : State) (b : Byte) : (s.storeReceived b).rb = s.rb.write s.rcnt.toNat b := rfl
@[simp] theorem State.storeReceived_rxst (s : State) (b : Byte) : (s.storeReceived b).rxst = s.rxst := rfl
@[simp] theorem State.storeReceived_rcnt (s : State) (b : Byte) : (s.storeReceived b).rcnt = s.rcnt + 1 := rfl
@[simp] theorem State.storeReceived_status (s : State) (b : Byte) : (s.storeReceived b).status = s.status := rfl
@[simp] theorem State.storeReceived_scur (s : State) (b : Byte) : (s.storeReceived b).scur = s.scur := rfl
@[simp] theorem State.storeReceived_plen (s : State) (b : Byte) : (s.storeReceived b).plen = s.plen := rfl
@[simp] theorem State.storeReceived_pcur (s : State) (b : Byte) : (s.storeReceived b).pcur = s.pcur := rfl
@[simp] theorem State.storeReceived_txcnt (s : State) (b : Byte) : (s.storeReceived b).txcnt = s.txcnt := rfl
@[simp] theorem State.storeReceived_params (s : State) (b : Byte) : (s.storeReceived b).params = s.params := rfl
@[simp] theorem State.storeReceived_inputs (s : State) (b : Byte) : (s.storeReceived b).inputs = s.inputs := rfl
@[simp] theorem State.storeReceived_rxBuf (s : State) (b : Byte) : (s.storeReceived b).rxBuf = s.rxBuf := rfl
@[simp] theorem State.storeReceived_txAnswers (s : State) (b : Byte) : (s.storeReceived b).txAnswers = s.txAnswers := rfl
@[simp] theorem State.storeReceived_draws (s : State) (b : Byte) : (s.storeReceived b).draws = s.draws := rfl
@[simp] theorem State.storeReceived_responses (s : State) (b : Byte) : (s.storeReceived b).responses = s.responses := rfl
@[simp] theorem State.storeReceived_txLog (s : State) (b : Byte) : (s.storeReceived b).txLog = s.txLog := rfl
@[simp] theorem State.storeReceived_rxTaken (s : State) (b : Byte) : (s.storeReceived b).rxTaken = s.rxTaken ++ [b] := rfl

end Sys2Proof.Machine
end

