-- ==== Sys2Proof/Laws/Ops.lean ====
section
/-! SUPPORT. What each shared operation and each meaning can do, said once: if it answers a next state, which one. Later
proofs cite these lemmas instead of unfolding the operations. -/

namespace Sys2Proof.Machine

/-! ## Accepting a command (R170) -/

@[simp] theorem State.accept_idle {s : State} (h : s.rxst = .idle) (k : Host.Outcome State Fault Refusal) :
    s.accept k = k := by simp [State.accept, h]

@[simp] theorem State.accept_receiving {s : State} (h : s.rxst = .receiving) (k : Host.Outcome State Fault Refusal) :
    s.accept k = .fault .commandWhileReceiving := by simp [State.accept, h]

theorem State.accept_eq_next {s t : State} {k : Host.Outcome State Fault Refusal} (h : s.accept k = .next t) :
    s.rxst = .idle ∧ k = .next t := by
  unfold State.accept at h
  split at h
  · exact ⟨‹_›, h⟩
  · cases h

/-! ## Commands -/

theorem State.append_eq_next {k w : Nat} {v : BitVec k} {s t : State} (h : s.append w v = .next t) :
    s.rxst = .idle ∧
      ((Config.sbCap < s.scur.toNat + w ∧ t = s.raise .bufferOverflow) ∨
       (s.scur.toNat + w ≤ Config.sbCap ∧
        t = { s with
          sb := s.sb.writeRange s.scur.toNat (beBytes w v), scur := s.scur + BitVec.ofNat 10 w }.complete .ok
            ((s.scur + BitVec.ofNat 10 w).setWidth 32))) := by
  obtain ⟨hi, h⟩ := State.accept_eq_next h
  refine ⟨hi, ?_⟩
  split at h
  · exact .inl ⟨by omega, by cases h; rfl⟩
  · exact .inr ⟨by omega, by cases h; rfl⟩

theorem State.get_eq_next {w : Nat} {g : Bool} {s t : State} (h : s.get w g = .next t) :
    s.rxst = .idle ∧
      ((s.plen.toNat < s.pcur.toNat + w ∧ t = s.raise .shortPayload) ∨
       (s.pcur.toNat + w ≤ s.plen.toNat ∧ s.pcur.toNat + w ≤ Config.pbCap ∧
        t = { s with pcur := s.pcur + BitVec.ofNat 10 w }.complete .ok
          (extendTo32 w g (s.pb.readRange s.pcur.toNat w)))) := by
  obtain ⟨hi, h⟩ := State.accept_eq_next h
  refine ⟨hi, ?_⟩
  split at h
  · exact .inl ⟨by omega, by cases h; rfl⟩
  · unfold Memory.fetch at h
    split at h
    · cases h
    · rename_i hf
      split at hf
      · cases hf; cases h
        exact .inr ⟨by omega, ‹_›, rfl⟩
      · cases hf

theorem execCrc16_eq_next {buf : BufSel} {off len : Cursor} {s t : State} (h : execCrc16 buf off len s = .next t) :
    s.rxst = .idle ∧
      ((s.extent buf < off.toNat + len.toNat ∧ t = s.raise .range) ∨
       (off.toNat + len.toNat ≤ s.extent buf ∧ off.toNat + len.toNat ≤ (spaceOf buf).cap ∧
        t = s.complete .ok ((crc16 s.params ((s.buffer buf).readRange off.toNat len.toNat)).setWidth 32))) := by
  obtain ⟨hi, h⟩ := State.accept_eq_next h
  refine ⟨hi, ?_⟩
  split at h
  · exact .inl ⟨by omega, by cases h; rfl⟩
  · unfold Memory.fetch at h
    split at h
    · cases h
    · rename_i hf
      split at hf
      · cases hf; cases h
        exact .inr ⟨by omega, ‹_›, rfl⟩
      · cases hf

theorem execTxclr_eq_next {s t : State} (h : execTxclr s = .next t) :
    s.rxst = .idle ∧ t = { s with scur := 0 }.complete .ok 0 := by
  obtain ⟨hi, h⟩ := State.accept_eq_next h
  cases h
  exact ⟨hi, rfl⟩

theorem execSend_eq_next {s t : State} (h : execSend s = .next t) :
    s.rxst = .idle ∧ ∃ pkt, frame s.params (s.sb.readRange 0 s.scur.toNat) = some pkt ∧
      t = (s.txWrite pkt).finishSend pkt.length (s.txAccept pkt.length) := by
  obtain ⟨hi, h⟩ := State.accept_eq_next h
  split at h
  · cases h
  · cases h
    exact ⟨hi, _, ‹_›, rfl⟩

theorem execRecv_eq_next {s t : State} (h : execRecv s = .next t) :
    s.rxst = .idle ∧ t = { s with plen := 0, pcur := 0, rcnt := 0, rxst := .receiving } := by
  obtain ⟨hi, h⟩ := State.accept_eq_next h
  cases h
  exact ⟨hi, rfl⟩

theorem execRdsr_eq_next {n : Byte} {s t : State} (h : execRdsr n s = .next t) :
    s.rxst = .idle ∧
      ((∃ v, s.readSr n = some v ∧ t = s.respond .ok v) ∨
       (s.readSr n = none ∧ t = (s.respond .range s.unspecifiedData).drawn)) := by
  obtain ⟨hi, h⟩ := State.accept_eq_next h
  refine ⟨hi, ?_⟩
  split at h
  · cases h
    exact .inl ⟨_, ‹_›, rfl⟩
  · cases h
    exact .inr ⟨‹_›, rfl⟩

theorem illegalCommand_eq_next {s t : State} (h : illegalCommand s = .next t) :
    s.rxst = .idle ∧ t = s.raise .illegalCommand := by
  obtain ⟨hi, h⟩ := State.accept_eq_next h
  cases h
  exact ⟨hi, rfl⟩

/-! ## The transport's answer -/

theorem State.txAccept_le (s : State) (n : Nat) : s.txAccept n ≤ n := by
  unfold State.txAccept
  split <;> omega

theorem State.txAccept_cons {s : State} {a : Nat} {as : List Nat} (h : s.txAnswers = a :: as) (n : Nat) :
    s.txAccept n = min a n := by simp [State.txAccept, h]

theorem frame_isSome {p : Params} {P : List Byte} (h : P.length ≤ Config.maxPayload) :
    frame p P = some (frameHeader p P.length ++ frameBody P (crc16 p P) p.stop) := if_pos h

theorem frame_isNone {p : Params} {P : List Byte} (h : Config.maxPayload < P.length) : frame p P = none :=
  if_neg (by omega)

@[simp] theorem length_frameBody (P : List Byte) (c : Half) (st : Byte) : (frameBody P c st).length = P.length + 3 := by
  simp [frameBody]

theorem length_frameHeader (p : Params) (n : Nat) : (frameHeader p n).length = if n ≤ 255 then 2 else 3 := by
  unfold frameHeader Config.shortMax
  split <;> rfl

theorem length_of_frame {p : Params} {P f : List Byte} (h : frame p P = some f) :
    P.length ≤ 512 ∧ f.length = P.length + if P.length ≤ 255 then 5 else 6 := by
  unfold frame Config.maxPayload at h
  split at h
  · cases h
    simp only [List.length_append, length_frameBody, length_frameHeader]
    split <;> omega
  · cases h

/-! ## Receiving -/

/-- The three things the checks after a stored byte can do: fail, succeed, or wait (R154 to R157). -/
theorem State.checkReceived_cases (s : State) :
    (∃ st, s.checkReceived = s.failReceive st ∧
      (st = .frameBadStart ∨ st = .frameBadLength ∨ st = .frameIntegrityStop ∨ st = .frameIntegrityCrc)) ∨
    (∃ h, headerLen s.params (s.rb.read 0) = some h ∧
      s.rcnt.toNat = h + declaredLen h (s.rb.read 1) (s.rb.read 2) + Config.trailer ∧
      s.checkReceived = s.receiveOk h (declaredLen h (s.rb.read 1) (s.rb.read 2))) ∨
    (s.checkReceived = s ∧ ∃ h, headerLen s.params (s.rb.read 0) = some h ∧
      (h ≤ s.rcnt.toNat →
        (s.rcnt.toNat = h → declaredLen h (s.rb.read 1) (s.rb.read 2) ≤ Config.maxPayload) ∧
        s.rcnt.toNat ≠ h + declaredLen h (s.rb.read 1) (s.rb.read 2) + Config.trailer)) := by
  unfold State.checkReceived
  split
  · exact .inl ⟨_, rfl, by simp⟩
  · rename_i h hh
    split
    · exact .inr (.inr ⟨rfl, h, hh, fun _ => by omega⟩)
    · dsimp only
      split
      · exact .inl ⟨_, rfl, by simp⟩
      · split
        · rename_i h1 h2 h3
          unfold State.validate
          split
          · exact .inl ⟨_, rfl, by simp⟩
          · split
            · exact .inl ⟨_, rfl, by simp⟩
            · exact .inr (.inl ⟨h, hh, h3, rfl⟩)
        · rename_i h1 h2 h3
          exact .inr (.inr ⟨rfl, h, hh, fun _ => ⟨fun e => by
            by_contra hc
            exact h2 ⟨e, by omega⟩, h3⟩⟩)

theorem State.takeByte_eq_next {b : Byte} {s t : State} (h : s.takeByte b = .next t) :
    s.rcnt.toNat < Config.rbCap ∧ t = (s.storeReceived b).checkReceived := by
  unfold State.takeByte at h
  split at h
  · cases h
    exact ⟨‹_›, rfl⟩
  · cases h

theorem eventRxByte_eq_next {s t : State} (h : eventRxByte s = .next t) :
    s.rxst = .receiving ∧ ∃ b rest, s.rxBuf = b :: rest ∧ { s with rxBuf := rest }.takeByte b = .next t := by
  unfold eventRxByte at h
  split at h
  · exact ⟨‹_›, _, _, ‹_›, h⟩
  · cases h
  · cases h

theorem eventTimeout_eq_next {s t : State} (h : eventTimeout s = .next t) :
    s.rxst = .receiving ∧ t = s.failReceive .frameTimeout := by
  unfold eventTimeout at h
  split at h
  · cases h
    exact ⟨‹_›, rfl⟩
  · cases h

@[simp] theorem takeWaiting_nil (s : State) : takeWaiting [] s = .next s := rfl

theorem takeWaiting_idle {s : State} (h : s.rxst = .idle) (bs : List Byte) : takeWaiting bs s = .next s := by
  cases bs with
  | nil => rfl
  | cons b bs => simp [takeWaiting, h]

theorem takeWaiting_cons {s : State} (h : s.rxst = .receiving) (b : Byte) (bs : List Byte) :
    takeWaiting (b :: bs) s =
      match { s with rxBuf := bs }.takeByte b with
      | .next t => takeWaiting bs t
      | .fault r => .fault r
      | .refused r => .refused r := by
  simp only [takeWaiting, h] <;> rfl

/-- What every byte taken keeps, the taking of the waiting bytes keeps. -/
theorem takeWaiting_keeps {P : State → Prop}
    (hstep : ∀ (s t : State) (b : Byte) (r : List Byte), P s → s.rxst = .receiving →
      { s with rxBuf := r }.takeByte b = .next t → P t) :
    ∀ (bs : List Byte) (s t : State), P s → takeWaiting bs s = .next t → P t := by
  intro bs
  induction bs with
  | nil => intro s t hs h; cases h; exact hs
  | cons b bs ih =>
    intro s t hs h
    cases hx : s.rxst with
    | idle => rw [takeWaiting_idle hx] at h; cases h; exact hs
    | receiving =>
      rw [takeWaiting_cons hx] at h
      split at h
      · rename_i u hu
        exact ih u t (hstep s u b bs hs hx hu) h
      · cases h
      · cases h

theorem State.deliver_idle {s : State} (h : s.rxst = .idle) (bs : List Byte) :
    s.deliver bs = .next { s with rxBuf := s.rxBuf ++ bs } := takeWaiting_idle (by exact h) _

/-! ## The step -/

theorem step_eq_next {s t : State} (h : step s = .next t) :
    ∃ x rest, s.inputs = x :: rest ∧ runInput x { s with inputs := rest } = .next t := by
  unfold step at h
  split at h
  · cases h
  · exact ⟨_, _, ‹_›, h⟩

theorem step_cons {s : State} {x : Input} {rest : List Input} (h : s.inputs = x :: rest) :
    step s = runInput x { s with inputs := rest } := by simp [step, h]

theorem runCommand_ok {w : Word40} {s : State} {i : Instr} (h : decodeCommand w = .ok i) : runCommand w s = exec i s := by
  simp [runCommand, decode, h]

theorem runCommand_error {w : Word40} {s : State} {e : DecodeError} (h : decodeCommand w = .error e) :
    runCommand w s = illegalCommand s := by
  simp [runCommand, decode, h]

end Sys2Proof.Machine
end

