-- ==== Sys2Proof/Laws/PerInstr.lean ====
section
/-! SUPPORT. Statements made of every instruction, one lemma per constructor. OpcodeRow: the code of the instruction has
the fixed bits of its row of spec/opcode_table.json (30_encoding.md R71, R72, R80, R90), with every parameter. -/

namespace Sys2Proof.Laws.OpcodeRow

/-- The operation code of the row of a command; the first byte of the row of a frame is a start marker. -/
def Statement (i : Instr) : Prop :=
  ∀ p : Params,
    match encode p i with
    | .command w => i.isCommand = true ∧ opOf w ∈ definedOps ∧ w &&& 0xFF00000000#40 = commandWord (opOf w) 0#32
    | .wire bs => i.isCommand = false ∧ (bs.head? = some p.startShort ∨ bs.head? = some p.startLong)

theorem high_byte (op : Byte) (arg : Word) :
    commandWord op arg &&& 0xFF00000000#40 = commandWord (opOf (commandWord op arg)) 0#32 := by
  rw [opOf_commandWord]
  have h : (0xFF00000000#40 : Word40) = commandWord 0xFF#8 0#32 := by decide
  rw [h]
  unfold commandWord
  rw [BitVec.and_append]
  have h8 : op &&& 0xFF#8 = op := BitVec.and_allOnes
  rw [h8, BitVec.and_zero]

theorem of_command {i : Instr} {op : Byte} {arg : Word} (hc : i.isCommand = true) (ho : op ∈ definedOps)
    (h : ∀ p, encode p i = .command (commandWord op arg)) : Statement i := by
  intro p
  rw [h p]
  exact ⟨hc, by simpa using ho, high_byte op arg⟩

theorem crc16 (buf : BufSel) (off len : Cursor) : Statement (.crc16 buf off len) :=
  of_command rfl (by decide) fun _ => rfl
theorem appendU8 (v : BitVec 8) : Statement (.appendU8 v) := of_command rfl (by decide) fun _ => rfl
theorem appendU16 (v : BitVec 16) : Statement (.appendU16 v) := of_command rfl (by decide) fun _ => rfl
theorem appendU32 (v : BitVec 32) : Statement (.appendU32 v) := of_command rfl (by decide) fun _ => rfl
theorem appendI8 (v : BitVec 8) : Statement (.appendI8 v) := of_command rfl (by decide) fun _ => rfl
theorem appendI16 (v : BitVec 16) : Statement (.appendI16 v) := of_command rfl (by decide) fun _ => rfl
theorem appendI32 (v : BitVec 32) : Statement (.appendI32 v) := of_command rfl (by decide) fun _ => rfl
theorem txclr : Statement .txclr := of_command rfl (by decide) fun _ => rfl
theorem getU8 : Statement .getU8 := of_command rfl (by decide) fun _ => rfl
theorem getU16 : Statement .getU16 := of_command rfl (by decide) fun _ => rfl
theorem getU32 : Statement .getU32 := of_command rfl (by decide) fun _ => rfl
theorem getI8 : Statement .getI8 := of_command rfl (by decide) fun _ => rfl
theorem getI16 : Statement .getI16 := of_command rfl (by decide) fun _ => rfl
theorem getI32 : Statement .getI32 := of_command rfl (by decide) fun _ => rfl
theorem send : Statement .send := of_command rfl (by decide) fun _ => rfl
theorem recv : Statement .recv := of_command rfl (by decide) fun _ => rfl
theorem rdsr (n : Byte) : Statement (.rdsr n) := of_command rfl (by decide) fun _ => rfl
theorem frameShort (len : Byte) (payload : List Byte) (crc : Half) (stop : Byte) :
    Statement (.frameShort len payload crc stop) := fun _ => ⟨rfl, .inl rfl⟩
theorem frameLong (len : Half) (payload : List Byte) (crc : Half) (stop : Byte) :
    Statement (.frameLong len payload crc stop) := fun _ => ⟨rfl, .inr rfl⟩

end Sys2Proof.Laws.OpcodeRow
end

