-- ==== Sys2Proof/Laws/Receive.lean ====
section
/-! SUPPORT. The small laws of the deframer: what a first byte selects, how long a declared length can be, the bytes of a
prefix, and that the checks of a receive never look at the environment's script. -/

namespace Sys2Proof.Machine

theorem State.idle_or_receiving (s : State) : s.rxst = .idle ∨ s.rxst = .receiving := by cases s.rxst <;> simp

theorem Status.code_le (st : Status) : st.code.toNat ≤ 10 := by cases st <;> decide

/-! ## The header -/

theorem headerLen_cases {p : Params} {b : Byte} {h : Nat} (e : headerLen p b = some h) : h = 2 ∨ h = 3 := by
  unfold headerLen at e
  split at e
  · cases e; simp
  · split at e
    · cases e; simp
    · cases e

@[simp] theorem headerLen_startShort (p : Params) : headerLen p p.startShort = some 2 := by simp [headerLen]

theorem headerLen_startLong {p : Params} (h : p.wf) : headerLen p p.startLong = some 3 := by simp [headerLen, Ne.symm h]

theorem headerLen_eq_none {p : Params} {b : Byte} : headerLen p b = none ↔ b ≠ p.startShort ∧ b ≠ p.startLong := by
  unfold headerLen
  split <;> simp_all

theorem declaredLen_two_le (b1 b2 : Byte) : declaredLen 2 b1 b2 ≤ 255 := by
  simp only [declaredLen, if_true]
  omega

theorem declaredLen_three (b1 b2 : Byte) : declaredLen 3 b1 b2 = b1.toNat * 256 + b2.toNat := rfl

/-! ## Bytes of a sequence -/

theorem byteAt_append_left {a r : List Byte} {i : Nat} (h : i < a.length) : byteAt (a ++ r) i = byteAt a i := by
  simp [byteAt, List.getElem?_append_left h]

theorem byteAt_take {bs : List Byte} {i n : Nat} (h : i < n) : byteAt (bs.take n) i = byteAt bs i := by
  simp [byteAt, h]

theorem byteAt_readRange {m : Memory} {a n i : Nat} (h : i < n) : byteAt (m.readRange a n) i = m.read (a + i) := by
  unfold byteAt
  rw [List.getD_eq_getElem?_getD, List.getElem?_eq_getElem (by simpa using h)]
  simp

/-! ## The checks and the script -/

/-- The checks of a receive commute with a change of the script: they read nothing of it (R153). -/
theorem State.checkReceived_withInputs (s : State) (xs : List Input) :
    { s with inputs := xs }.checkReceived = { s.checkReceived with inputs := xs } := by
  unfold State.checkReceived
  dsimp only
  cases headerLen s.params (s.rb.read 0) with
  | none => rfl
  | some h =>
    dsimp only
    by_cases h1 : s.rcnt.toNat < h
    · rw [if_pos h1, if_pos h1]
    · rw [if_neg h1, if_neg h1]
      by_cases h2 : s.rcnt.toNat = h ∧ declaredLen h (s.rb.read 1) (s.rb.read 2) > Config.maxPayload
      · rw [if_pos h2, if_pos h2]
        rfl
      · rw [if_neg h2, if_neg h2]
        by_cases h3 : s.rcnt.toNat = h + declaredLen h (s.rb.read 1) (s.rb.read 2) + Config.trailer
        · rw [if_pos h3, if_pos h3]
          unfold State.validate
          dsimp only
          generalize declaredLen h (s.rb.read 1) (s.rb.read 2) = ld
          by_cases h4 : s.rb.read (h + ld + 2) ≠ s.params.stop
          · rw [if_pos h4, if_pos h4]
            rfl
          · rw [if_neg h4, if_neg h4]
            by_cases h5 : half (s.rb.read (h + ld)) (s.rb.read (h + ld + 1)) ≠ crc16 s.params (s.rb.readRange h ld)
            · rw [if_pos h5, if_pos h5]
              rfl
            · rw [if_neg h5, if_neg h5]
              rfl
        · rw [if_neg h3, if_neg h3]

end Sys2Proof.Machine
end

