-- ==== Sys2Proof/Laws/Scaled.lean ====
section
/-! SUPPORT. The small laws of the scaled pseudo-operations: when one is issued, and what its command word decodes to. -/

namespace Sys2Proof.Machine

/-- When an integer is appended, and which (R181, R183). -/
theorem scaledInteger_eq_some {tie : RoundTie} {t : ScaledType} {x : Physical} {scale : Nat} {n : Int} :
    scaledInteger tie t x scale = some n ↔
      ∃ q, x = .finite q ∧ scale ≠ 0 ∧ n = roundNearest tie (q * scale) ∧ t.inRange n = true := by
  constructor
  · intro h
    unfold scaledInteger at h
    split at h
    · cases h
    · split at h
      · cases h
      · split at h
        · cases h
          exact ⟨_, rfl, ‹_›, rfl, ‹_›⟩
        · cases h
  · rintro ⟨q, rfl, hs, rfl, hr⟩
    simp [scaledInteger, hs, hr]

/-- What is issued is the append of the integer (R181). -/
theorem appendScaled_eq_some {tie : RoundTie} {t : ScaledType} {x : Physical} {scale : Nat} {i : Instr} :
    appendScaled tie t x scale = some i ↔ ∃ n, scaledInteger tie t x scale = some n ∧ t.appendOf n = i := by
  simp [appendScaled]

@[simp] theorem appendScaled_scale_zero (tie : RoundTie) (t : ScaledType) (x : Physical) :
    appendScaled tie t x 0 = none := by cases x <;> rfl

@[simp] theorem getScaledIssue_scale_zero (t : ScaledType) : getScaledIssue t 0 = none := rfl

@[simp] theorem getScaled_scale_zero (t : ScaledType) (r : Response) : getScaled t 0 r = .error .notIssued := rfl

/-- The word of the append decodes to it: the operand is cut to its width again (R84). -/
theorem decodeCommand_scaled (t : ScaledType) (n : Int) :
    decodeCommand (commandWord t.appendOp (t.argOf n)) = .ok (t.appendOf n) := by
  have low : ∀ (w : Word) (k : Nat), w.extractLsb' 0 k = w.setWidth k := fun w k => by
    apply BitVec.eq_of_getLsbD_eq
    intro j hj
    simp [hj]
  rw [decodeCommand_commandWord]
  cases t <;> simp [ScaledType.appendOp, ScaledType.appendOf, decodeOp, low]

end Sys2Proof.Machine
end

