-- ==== Sys2Proof/Tests/Slice0.lean ====
section
/-! SUPPORT. The model's own tests. Expected values come from spec/95_test_vectors.md (the id stands in the comment) or
from the encodings of 30_encoding.md, never from the model. Then a witness for the hypotheses of each statement. -/

namespace Sys2Proof.Tests

open Sys2Proof Sys2Proof.Machine

/-! ## Helpers -/

/-- The next state, if there is one. -/
def nextOf : Host.Outcome State Fault Refusal → Option State
  | .next s => some s
  | .fault _ => none
  | .refused _ => none

/-- Idle, these payload bytes in `SB`, these in `PB`, the read cursor as given. -/
def idleWith (sb pb : List Byte) (pcur : Nat) : State :=
  { State.reset with
    sb := Memory.writeRange [] 0 sb, scur := BitVec.ofNat 10 sb.length
    pb := Memory.writeRange [] 0 pb, plen := BitVec.ofNat 10 pb.length, pcur := BitVec.ofNat 10 pcur }

/-- Idle, with this send cursor and nothing known of the bytes below it. -/
def idleAt (scur : Nat) : State := { State.reset with scur := BitVec.ofNat 10 scur }

/-- Receiving, these bytes taken, these waiting. -/
def receivingWith (taken waiting : List Byte) : State :=
  { State.reset with
    rxst := .receiving, rb := Memory.writeRange [] 0 taken, rcnt := BitVec.ofNat 10 taken.length, rxBuf := waiting }

/-- The responses after an instruction. -/
def responsesOf (i : Instr) (s : State) : Option (List Response) := (nextOf (exec i s)).map (·.responses)

/-- The statuses and data a run of inputs answers, `SCUR` and `PCUR` at the end. -/
def runOf (k : Nat) (s : State) (xs : List Input) : Option State := nextOf (Sys2Proof.core.run k { s with inputs := xs })

/-! ## WellFormed: an ill-formed term for each check -/

theorem test_frameShort_length_refused : Instr.wellFormed (.frameShort 2 [0x04] 0x4084 0x03) = false := by decide
theorem test_frameLong_length_refused : Instr.wellFormed (.frameLong 2 [0x04] 0x4084 0x03) = false := by decide
theorem test_frameLong_over_512_refused :
    Instr.wellFormed (.frameLong 513 (List.replicate 513 0) 0 0x03) = false := by decide +kernel
theorem test_frameLong_512_accepted : Instr.wellFormed (.frameLong 512 (List.replicate 512 0) 0 0x03) = true := by
  decide +kernel

/-! ## Decode: a word written out for every constructor (30_encoding.md R71, R72, R80, R83, R90) -/

theorem test_decode_crc16 : decodeCommand 0b00010000_1_00000_0000000001_000000_0000000010#40 = .ok (.crc16 .pb 1 2) := by decide
theorem test_decode_crc16_fields :
    decodeCommand 0b00010000_0_11111_1000000000_111111_0111111111#40 = .ok (.crc16 .sb 512 511) := by decide
theorem test_decode_appendU8 : decodeCommand 0b00100000_000000000000000000000001_11111111#40 = .ok (.appendU8 0xFF) := by decide
theorem test_decode_appendU16 : decodeCommand 0b00100001_0001001000110100_0101011001111000#40 = .ok (.appendU16 0x5678) := by decide
theorem test_decode_appendU32 : decodeCommand 0b00100010_00010001001000100011001101000100#40 = .ok (.appendU32 0x11223344) := by decide
theorem test_decode_appendI8 : decodeCommand 0b00100100_111111111111111111111111_11111110#40 = .ok (.appendI8 0xFE) := by decide
theorem test_decode_appendI16 : decodeCommand 0b00100101_1111111111111111_1111111110000101#40 = .ok (.appendI16 0xFF85) := by decide
theorem test_decode_appendI32 : decodeCommand 0b00100110_00000000000000000000010011010010#40 = .ok (.appendI32 1234) := by decide
theorem test_decode_txclr : decodeCommand 0b00101000_11011110101011011011111011101111#40 = .ok .txclr := by decide
theorem test_decode_getU8 : decodeCommand 0b00110000_00000000000000000000000000000000#40 = .ok .getU8 := by decide
theorem test_decode_getU16 : decodeCommand 0b00110001_00000000000000000000000000000000#40 = .ok .getU16 := by decide
theorem test_decode_getU32 : decodeCommand 0b00110010_00000000000000000000000000000001#40 = .ok .getU32 := by decide
theorem test_decode_getI8 : decodeCommand 0b00110100_00000000000000000000000000000000#40 = .ok .getI8 := by decide
theorem test_decode_getI16 : decodeCommand 0b00110101_00000000000000000000000000000000#40 = .ok .getI16 := by decide
theorem test_decode_getI32 : decodeCommand 0b00110110_00000000000000000000000000000000#40 = .ok .getI32 := by decide
theorem test_decode_send : decodeCommand 0b01000000_00000000000000000000000000000000#40 = .ok .send := by decide
theorem test_decode_recv : decodeCommand 0b01010000_00000000000000000000000000000000#40 = .ok .recv := by decide
theorem test_decode_rdsr : decodeCommand 0b01100000_000000000000000000000001_00000101#40 = .ok (.rdsr 5) := by decide
/-- R71 with 95_test_vectors.md F3. -/
theorem test_decode_frameShort :
    decode Params.default (.wire [0x02, 0x01, 0x04, 0x40, 0x84, 0x03]) = .ok (.frameShort 1 [0x04] 0x4084 0x03) := by decide
/-- R72 with 95_test_vectors.md D7. -/
theorem test_decode_frameLong :
    decode Params.default (.wire [0x03, 0x00, 0x01, 0x04, 0x40, 0x84, 0x03]) = .ok (.frameLong 1 [0x04] 0x4084 0x03) := by decide
/-- R85: a 64-bit size code is reserved. -/
theorem test_decode_reserved : decodeCommand 0x2300000001#40 = .error (.reservedOp 0x23) := by decide
/-- R77 (a), (b): a first byte that is no marker; a length of 513. -/
theorem test_decode_bad_start : decode Params.default (.wire [0x55]) = .error (.badStart 0x55) := by decide
theorem test_decode_bad_length : decode Params.default (.wire [0x03, 0x02, 0x01]) = .error (.badLength 513) := by decide +kernel
theorem test_tableWord_command : decodeTableWord 40 0x60000001FF = some (.rdsr 0xFF) := by decide
theorem test_tableWord_frameShort : decodeTableWord 8 0x02 = some (.frameShort 0 [] 0 0) := by decide
theorem test_tableWord_frameLong : decodeTableWord 8 0x03 = some (.frameLong 0 [] 0 0) := by decide

/-! ## Integrity Codec (C1, C2, C6, C7, C8) -/

theorem test_crc_shift_C1 : crcShifts 0x1021 7 (0x0000 ^^^ 0x0400) = 0x2042 := by decide +kernel
theorem test_crc16_C2 : crc16 Params.default [0x05, 0x00, 0x00, 0x04, 0xD2] = 0x04AC := by decide +kernel
theorem test_crcTable_C6 : crcTable 0x1021 0xFF = 0x1EF0 := by decide +kernel
theorem test_crc16_init_C7 : crc16 { Params.default with crcInit := 0xFFFF } [0x04] = 0xA174 := by decide +kernel
theorem test_crc16_ok_C8 :
    responsesOf (.crc16 .sb 0 5) (idleWith [0x05, 0x00, 0x00, 0x04, 0xD2] [] 0) = some [⟨.ok, 0x000004AC⟩] := by decide +kernel
theorem test_crc16_range_C8 :
    (responsesOf (.crc16 .sb 6 0) (idleWith [0x05, 0x00, 0x00, 0x04, 0xD2] [] 0)).map (·.map (·.status)) = some [.range] := by decide

/-! ## Serializer (A1) -/

theorem test_appendU8 : (nextOf (exec (.appendU8 9) (idleAt 511))).map (fun t => (t.sb, t.scur)) = some ([(511, 9)], 512) := by decide
theorem test_appendU8_overflow :
    (nextOf (exec (.appendU8 9) (idleAt 512))).map (fun t => (t.sb, t.scur, t.status.code)) = some ([], 512, 8) := by decide
theorem test_appendU16 : (nextOf (exec (.appendU16 300) (idleAt 1))).map (fun t => (t.sb, t.scur)) = some ([(1, 0x01), (2, 0x2C)], 3) := by decide
theorem test_appendU16_overflow : (nextOf (exec (.appendU16 9) (idleAt 511))).map (fun t => (t.sb, t.scur, t.status)) = some ([], 511, .bufferOverflow) := by decide
theorem test_appendU32 : (nextOf (exec (.appendU32 0x11223344) (idleAt 0))).map (fun t => (t.sb, t.responses)) =
    some ([(0, 0x11), (1, 0x22), (2, 0x33), (3, 0x44)], [⟨.ok, 4⟩]) := by decide
theorem test_appendI8 : (nextOf (exec (.appendI8 0xFE) (idleAt 0))).map (fun t => (t.sb, t.responses)) = some ([(0, 0xFE)], [⟨.ok, 1⟩]) := by decide
theorem test_appendI16 : (nextOf (exec (.appendI16 0xFF85) (idleAt 1))).map (fun t => (t.sb, t.scur)) = some ([(1, 0xFF), (2, 0x85)], 3) := by decide
theorem test_appendI32 : (nextOf (exec (.appendI32 0xFFFFFF9C) (idleAt 3))).map (fun t => (t.sb, t.scur)) =
    some ([(3, 0xFF), (4, 0xFF), (5, 0xFF), (6, 0x9C)], 7) := by decide
theorem test_appendI32_overflow : (nextOf (exec (.appendI32 9) (idleAt 509))).map (fun t => (t.sb, t.scur, t.status)) = some ([], 509, .bufferOverflow) := by decide
theorem test_txclr : (nextOf (exec .txclr (idleAt 7))).map (fun t => (t.scur, t.responses)) = some (0, [⟨.ok, 0⟩]) := by decide

/-! ## Deserializer (G1) -/

theorem test_getU8 : (nextOf (exec .getU8 (idleWith [] [0x80] 0))).map (fun t => (t.pcur, t.responses)) = some (1, [⟨.ok, 0x00000080⟩]) := by decide
theorem test_getU16 : (nextOf (exec .getU16 (idleWith [] [0x11, 0x22, 0x33, 0x44] 2))).map (fun t => (t.pcur, t.responses)) = some (4, [⟨.ok, 0x00003344⟩]) := by decide
theorem test_getU16_short : (nextOf (exec .getU16 (idleWith [] [0x04, 0x01, 0x2C] 2))).map (fun t => (t.pcur, t.status.code)) = some (2, 5) := by decide
theorem test_getU32 : (nextOf (exec .getU32 (idleWith [] [0x11, 0x22, 0x33, 0x44] 0))).map (fun t => (t.pcur, t.responses)) = some (4, [⟨.ok, 0x11223344⟩]) := by decide
theorem test_getU32_short : (nextOf (exec .getU32 (idleWith [] [0x04, 0x01, 0x2C] 0))).map (fun t => (t.pcur, t.status)) = some (0, .shortPayload) := by decide
theorem test_getI8 : (nextOf (exec .getI8 (idleWith [] [0xFE] 0))).map (fun t => (t.pcur, t.responses)) = some (1, [⟨.ok, 0xFFFFFFFE⟩]) := by decide
theorem test_getI16 : (nextOf (exec .getI16 (idleWith [] [0xFF, 0x85] 0))).map (fun t => (t.pcur, t.responses)) = some (2, [⟨.ok, 0xFFFFFF85⟩]) := by decide
theorem test_getI16_positive : (nextOf (exec .getI16 (idleWith [] [0x7F, 0xFF] 0))).map (fun t => t.responses) = some [⟨.ok, 0x00007FFF⟩] := by decide
theorem test_getI32 : (nextOf (exec .getI32 (idleWith [] [0xFF, 0xFF, 0xFF, 0x9C] 0))).map (fun t => (t.pcur, t.responses)) = some (4, [⟨.ok, 0xFFFFFF9C⟩]) := by decide

/-! ## Framer (F1, F4, F5, F6; P1, P2 variant) -/

theorem test_frame_F1 : frame Params.default [] = some [0x02, 0x00, 0x00, 0x00, 0x03] := by decide
theorem test_frame_F4 : frame Params.default [0x05, 0x00, 0x00, 0x04, 0xD2] =
    some [0x02, 0x05, 0x05, 0x00, 0x00, 0x04, 0xD2, 0x04, 0xAC, 0x03] := by decide +kernel
theorem test_frameHeader_F5 : frameHeader Params.default 255 = [0x02, 0xFF] := by decide
theorem test_frameHeader_F6 : frameHeader Params.default 256 = [0x03, 0x01, 0x00] := by decide
theorem test_send_P1 : (nextOf (exec .send { idleWith [0x04] [] 0 with txAnswers := [518] })).map
    (fun t => (t.txLog, t.txcnt, t.scur, t.responses)) =
    some ([⟨[0x02, 0x01, 0x04, 0x40, 0x84, 0x03], 6⟩], 6, 0, [⟨.ok, 6⟩]) := by decide +kernel
theorem test_send_short_P2 : (nextOf (exec .send { idleWith [0x04] [] 0 with txAnswers := [4] })).map
    (fun t => (t.txcnt, t.scur, t.status.code, t.responses)) = some (4, 0, 1, [⟨.transportShortWrite, 4⟩]) := by decide

/-! ## Deframer (D2 to D19; P3, P4) -/

theorem test_deframe_D4 : deframe Params.default [0x02, 0x01, 0x04, 0x40, 0x84] = .incomplete := by decide
theorem test_deframe_D6 : deframe Params.default [0x02, 0x01, 0x04, 0x40, 0x84, 0x03, 0xAA, 0xBB] = .ok [0x04] 6 := by decide +kernel
theorem test_deframe_D8 : deframe Params.default [0x03, 0x00, 0x00, 0x00, 0x00, 0x03] = .ok [] 6 := by decide
theorem test_deframe_D12 : deframe Params.default [0x03, 0x02, 0x01] = .fail .frameBadLength 3 := by decide
theorem test_deframe_D13 : deframe Params.default [0x03, 0x02, 0x00] = .incomplete := by decide
theorem test_deframe_D16 : deframe Params.default [0x02, 0x01, 0x04, 0x40, 0x85, 0x03] = .fail .frameIntegrityCrc 6 := by decide +kernel
theorem test_deframe_D18 : deframe Params.default [0x02, 0x01, 0x04, 0x40, 0x85, 0x04] = .fail .frameIntegrityStop 6 := by decide
theorem test_recv : (nextOf (exec .recv (idleWith [] [0x04] 1))).map (fun t => (t.rxst, t.plen, t.pcur, t.responses)) = some (.receiving, 0, 0, []) := by decide
/-- P3: the frame F8 arrives during a receive. -/
theorem test_frameShort_P3 :
    (nextOf (exec (.frameShort 8 [0x04, 0x01, 0x2C, 0xFF, 0xFF, 0xFF, 0x9C, 0x80] 0x9B86 0x03) (receivingWith [] []))).map
      (fun t => (t.rxst, t.plen, t.rcnt, t.pb.read 2, t.responses)) = some (.idle, 8, 0, 0x2C, [⟨.ok, 8⟩]) := by decide +kernel
/-- D15: a wrong stop byte. -/
theorem test_frameShort_D15 :
    (nextOf (exec (.frameShort 1 [0x04] 0x4084 0x04) (receivingWith [] []))).map (fun t => (t.plen, t.responses)) =
      some (0, [⟨.frameIntegrityStop, 0⟩]) := by decide
/-- D7: the non-canonical long form. -/
theorem test_frameLong_D7 :
    (nextOf (exec (.frameLong 1 [0x04] 0x4084 0x03) (receivingWith [] []))).map (fun t => (t.plen, t.pb, t.responses)) =
      some (1, [(0, 0x04)], [⟨.ok, 1⟩]) := by decide
/-- R160 (a): while idle the frame waits in the transport. -/
theorem test_frameLong_waits : (nextOf (exec (.frameLong 1 [0x04] 0x4084 0x03) State.reset)).map (fun t => (t.rxBuf, t.rxTaken)) =
    some ([0x03, 0x00, 0x01, 0x04, 0x40, 0x84, 0x03], []) := by decide
/-- D10: a bad first byte, one byte taken, the rest left. -/
theorem test_rxByte_bad_start : (nextOf (eventRxByte (receivingWith [] [0x55, 0x02]))).map
    (fun t => (t.rxst, t.rxBuf, t.status.code)) = some (.idle, [0x02], 6) := by decide
/-- R159: the timeout after `02 01 04`. -/
theorem test_timeout : (nextOf (eventTimeout (receivingWith [0x02, 0x01, 0x04] [0x40]))).map
    (fun t => (t.rxst, t.rcnt, t.rxBuf, t.responses)) = some (.idle, 0, [0x40], [⟨.frameTimeout, 0⟩]) := by decide

/-! ## System (2.6) -/

theorem test_rdsr_crccfg : responsesOf (.rdsr 5) State.reset = some [⟨.ok, 0x00001021⟩] := by decide
theorem test_rdsr_reserved : (nextOf (exec (.rdsr 7) (idleAt 3))).map (fun t => (t.status.code, t.responses.map (·.status))) = some (0, [.range]) := by decide
theorem test_rdsr_markers : responsesOf (.rdsr 6) State.reset = some [⟨.ok, 0x00030302⟩] := by decide
theorem test_illegal : (runOf 1 (idleAt 3) [.command 0x2300000001]).map (fun t => (t.status.code, t.scur, t.sb)) = some (10, 3, []) := by decide
theorem test_no_command_while_receiving :
    step { receivingWith [] [] with inputs := [.command 0x6000000000] } = .fault .commandWhileReceiving := rfl
theorem test_no_input : step State.reset = .fault .noInput := rfl
theorem test_reset_event : (runOf 1 (receivingWith [0x02] [0x01]) [.reset]).map (fun t => (t.rxst, t.rcnt, t.rxBuf, t.responses)) =
    some (.idle, 0, [0x01], []) := by decide
theorem test_response_word : (Response.word ⟨.transportShortWrite, 4⟩) = 0x0100000004#40 := by decide
theorem test_withFetchWord : (nextOf (step (State.reset.withFetchWord 40 0x2000000004))).map (fun t => (t.sb, t.scur)) = some ([(0, 0x04)], 1) := by decide

/-! ## Outside the block: the host's scaled operations (X1, X2, X7, X8), its call states (S10), the notation (P1) -/

theorem test_scaled_X2 : appendScaled .toEven .i16 (.finite (-123 / 10)) 10 = some (.appendI16 0xFF85) := by
  norm_num [appendScaled, scaledInteger, roundNearest, ScaledType.inRange, RoundTie.pick]
  decide
/-- The word of R117's example. -/
theorem test_scaled_X2_word : appendScaledWord .toEven .i16 (.finite (-123 / 10)) 10 = some 0x25FFFFFF85 := by
  norm_num [appendScaledWord, scaledInteger, roundNearest, ScaledType.inRange, RoundTie.pick]
  decide
theorem test_scaled_X8 : appendScaled .toEven .i16 (.finite 400) 100 = none := by
  norm_num [appendScaled, scaledInteger, roundNearest, ScaledType.inRange, RoundTie.pick]
theorem test_scaled_X9 : getScaled .u16 100 ⟨.ok, 40000⟩ = .ok 400 := by
  have h : ScaledType.reading .u16 40000 = 40000 := by decide
  simp only [getScaled, h]
  norm_num
theorem test_call_decoded : callAfterReply .ok [.ok, .ok] = some .decoded := by decide
theorem test_call_shortReply : callAfterReply .ok [.ok, .shortPayload] = some .shortReply := by decide
theorem test_call_timedOut : callAfterReply .frameTimeout [] = some .timedOut := by decide
theorem test_asm_appendI8 : asm Params.default (.appendI8 0xFE) = "APPEND_I8 -2" := by decide
theorem test_asm_send : TxWrite.asm ⟨[0x02, 0x01, 0x04, 0x40, 0x84, 0x03], 6⟩ = "=> TX 02 01 04 40 84 03 W=6" := by decide

/-! ## Witnesses: concrete states and operands that meet the hypotheses of each statement together, clause by clause -/

/-- A state of R38 while idle: one byte in `SB`, four in `PB`. -/
def wIdle : State := idleWith [0x04] [0x01, 0x02, 0x03, 0x04] 2

/-- A state of R38 inside a short frame with one payload byte: five of its six bytes taken, the last one waiting. -/
def wLast (crcLow stop : Byte) : State :=
  { receivingWith [0x02, 0x01, 0x04, 0x40, crcLow] [stop] with inputs := [.rxByte] }

/-- A state of R38 with two header bytes of a long frame taken, the third one waiting. -/
def wLong (lenLow : Byte) : State := { receivingWith [0x03, 0x02] [lenLow] with inputs := [.rxByte] }

/-- A receive that has taken nothing, with one input. -/
def wRecv (x : Input) : State := { receivingWith [] [] with inputs := [x] }

theorem inv_of_idle {s : State} (h : s.rxst = .idle)
    (hd : s.scur.toNat ≤ 512 ∧ s.pcur.toNat ≤ s.plen.toNat ∧ s.plen.toNat ≤ 512 ∧ s.rcnt = 0 ∧ s.txcnt.toNat ≤ 518)
    (hm : s.sb.wf ∧ s.pb.wf ∧ s.rb.wf ∧ s.sb.within 512 ∧ s.pb.within 512 ∧ s.rb.within 518 ∧ s.params.wf) : BlockInv s := by
  obtain ⟨d1, d2, d3, d4, d5⟩ := hd
  obtain ⟨m1, m2, m3, m4, m5, m6, m7⟩ := hm
  exact ⟨d1, d2, d3, by simp [d4], fun _ => d4, by simp [h], d5, Status.code_le _, by simp [h], m1, m2, m3, m4, m5, m6, m7⟩

theorem inv_of_receiving {s : State} (h : s.rxst = .receiving)
    (hd : s.scur.toNat ≤ 512 ∧ s.pcur = 0 ∧ s.plen = 0 ∧ s.rcnt.toNat ≤ 518 ∧ s.txcnt.toNat ≤ 518)
    (hp : s.rcnt = 0 ∨ ∃ k, headerLen s.params (s.rb.read 0) = some k ∧
      (k ≤ s.rcnt.toNat → declaredLen k (s.rb.read 1) (s.rb.read 2) ≤ 512 ∧
        s.rcnt.toNat < k + declaredLen k (s.rb.read 1) (s.rb.read 2) + 3))
    (hm : s.sb.wf ∧ s.pb.wf ∧ s.rb.wf ∧ s.sb.within 512 ∧ s.pb.within 512 ∧ s.rb.within 518 ∧ s.params.wf) : BlockInv s := by
  obtain ⟨d1, d2, d3, d4, d5⟩ := hd
  obtain ⟨m1, m2, m3, m4, m5, m6, m7⟩ := hm
  refine ⟨d1, by simp [d2], by simp [d3], d4, by simp [h], fun _ => ⟨d3, d2⟩, d5, Status.code_le _, ?_,
    m1, m2, m3, m4, m5, m6, m7⟩
  intro _ hr
  rcases hp with hp | hp
  · simp [hp] at hr
  · exact hp

theorem wIdle_inv : BlockInv wIdle := inv_of_idle rfl (by decide) (by decide)
/-- R38 says nothing of the transport and the script. -/
theorem inv_env {s : State} (h : BlockInv s) (bs : List Byte) (xs : List Input) : BlockInv { s with rxBuf := bs, inputs := xs } :=
  ⟨h.scur_le, h.pcur_le, h.plen_le, h.rcnt_le, h.idle_rcnt, h.receiving_empty, h.txcnt_le, h.status_code, h.position,
    h.sb_wf, h.pb_wf, h.rb_wf, h.sb_within, h.pb_within, h.rb_within, h.params_wf⟩

theorem wLast84_inv (b : Byte) : BlockInv (wLast 0x84 b) :=
  inv_env (s := receivingWith [0x02, 0x01, 0x04, 0x40, 0x84] [])
    (inv_of_receiving rfl (by decide) (.inr ⟨2, by decide, by decide⟩) (by decide)) [b] [.rxByte]
theorem wLast85_inv (b : Byte) : BlockInv (wLast 0x85 b) :=
  inv_env (s := receivingWith [0x02, 0x01, 0x04, 0x40, 0x85] [])
    (inv_of_receiving rfl (by decide) (.inr ⟨2, by decide, by decide⟩) (by decide)) [b] [.rxByte]
theorem wLong_inv (b : Byte) : BlockInv (wLong b) :=
  inv_env (s := receivingWith [0x03, 0x02] [])
    (inv_of_receiving rfl (by decide) (.inr ⟨3, by decide, by decide⟩) (by decide)) [b] [.rxByte]
theorem wRecv_inv (x : Input) : BlockInv (wRecv x) :=
  inv_env (s := receivingWith [] []) (inv_of_receiving rfl (by decide) (.inl rfl) (by decide)) [] [x]

theorem witness_DecodeInvertsEncode : Params.default.wf ∧ Instr.wellFormed (.frameShort 1 [0x04] 0x4084 0x03) = true ∧
    Instr.wellFormed (.frameLong 512 (List.replicate 512 0) 0 0) = true ∧ Instr.wellFormed (.crc16 .pb 1023 1023) = true := by
  decide +kernel
theorem witness_CommandWordIsItsUsedBits : decodeCommand 0x107C00FC05 = .ok (.crc16 .sb 0 5) := by decide
theorem witness_IgnoredBitsHaveNoEffect : decodeCommand 0x107C00FC05 = .ok (.crc16 .sb 0 5) ∧
    (0x1000000005#40 : Word40) &&& usedMask (.crc16 .sb 0 5) = 0x107C00FC05#40 &&& usedMask (.crc16 .sb 0 5) := by decide
theorem witness_ReservedOpsAreExactlyTheRejectedOnes : opOf 0x2800000000 ∈ definedOps ∧ opOf 0xFFFFFFFFFF ∉ definedOps := by
  decide
theorem witness_DecodedFrameStandsAtTheBeginning :
    decodeFrame Params.default [0x02, 0x01, 0x04, 0x40, 0x84, 0x03, 0xAA] = .ok (.frameShort 1 [0x04] 0x4084 0x03, [0xAA]) := by
  decide
theorem witness_StepRunsTheDecodedInstruction :
    ({ wIdle with inputs := [.command 0x2000000004] } : State).inputs = inputOf (.command 0x2000000004) :: [] ∧
    decode Params.default (.command 0x2000000004) = .ok (.appendU8 4) ∧
    decode Params.default (tableCode Params.default 40 0x2000000004) = .ok (.appendU8 4) ∧
    decode Params.default (tableCode Params.default 8 0x03) = .ok (.frameLong 0 [] 0 0) := by decide
theorem witness_IllegalCommandChangesOnlyStatus :
    ({ wIdle with inputs := [.command 0x2300000001] } : State).inputs = .command 0x2300000001 :: [] ∧
    opOf 0x2300000001 ∉ definedOps ∧ wIdle.rxst = .idle := by decide
theorem witness_NoCommandIsAcceptedWhileReceiving : (wRecv (.command 0x5000000000)).rxst = .receiving ∧
    Instr.recv.isCommand = true ∧ (wRecv (.command 0x5000000000)).inputs = .command 0x5000000000 :: [] := by decide
theorem witness_EveryCommandButRecvAnswersOnce : (∃ t, exec .txclr wIdle = .next t) ∧ ∃ t, exec .recv wIdle = .next t :=
  ⟨⟨_, rfl⟩, ⟨_, rfl⟩⟩
theorem witness_CrcIncrementalLeadingZeroCheckValue : Params.default.crcInit = 0 := by decide
theorem witness_CrcIsLinear : ([0x04, 0x01] : List Byte).length = ([0x80, 0xFF] : List Byte).length := by decide
theorem witness_CrcDetectsEverySingleBitError : Params.default.crcPoly ≠ 0 ∧ 1 < ([0x04, 0x01] : List Byte).length ∧ 7 < 8 := by
  decide
theorem witness_Crc16AnswersTheCrcOfTheRange : opOf 0x1080010002 = 0x10#8 ∧ wIdle.rxst = .idle ∧
    wIdle.extent .pb ≤ (spaceOf .pb).cap ∧ (4#10).toNat + (0#10).toNat ≤ wIdle.extent .pb ∧
    wIdle.extent .pb < (5#10).toNat + (0#10).toNat := by decide
theorem witness_AppendsWriteBigEndianAtTheCursor : (idleAt 508).rxst = .idle ∧ (idleAt 508).sb.wf ∧
    (idleAt 508).scur.toNat + 4 ≤ Config.sbCap ∧ (idleAt 511).scur.toNat + 1 ≤ Config.sbCap := by decide
theorem witness_AppendThatDoesNotFitWritesNothing : 512 < (idleAt 512).scur.toNat + 1 ∧ 512 < (idleAt 511).scur.toNat + 2 ∧
    512 < (idleAt 509).scur.toNat + 4 ∧ (idleAt 509).scur.toNat + 1 ≤ 512 ∧ ∃ t, exec (.appendU32 9) (idleAt 509) = .next t :=
  ⟨by decide, by decide, by decide, by decide, ⟨_, rfl⟩⟩
theorem witness_TxclrEmptiesTheSendBuffer : opOf 0x28DEADBEEF = 0x28#8 ∧ wIdle.rxst = .idle := by decide
theorem witness_GetsAnswerTheBigEndianValue : wIdle.rxst = .idle ∧ wIdle.plen.toNat ≤ Config.pbCap ∧
    wIdle.pcur.toNat + 2 ≤ wIdle.plen.toNat ∧ { wIdle with pcur := 0 }.pcur.toNat + 4 ≤ wIdle.plen.toNat := by decide
theorem witness_ReadPastThePayloadConsumesNothing : BlockInv wIdle ∧ wIdle.pcur.toNat + 2 = wIdle.plen.toNat ∧
    wIdle.plen.toNat < wIdle.pcur.toNat + 4 ∧ ({ wIdle with pcur := 3 } : State).plen.toNat < 3 + 2 ∧
    ({ wIdle with pcur := 4 } : State).plen.toNat < 4 + 1 ∧ ∃ t, exec .getU32 wIdle = .next t :=
  ⟨wIdle_inv, by decide, by decide, by decide, by decide, ⟨_, rfl⟩⟩
theorem witness_FrameFieldsStandAtTheirPositions : 512 < (List.replicate 513 0#8).length ∧
    (List.replicate 255 0#8).length ≤ 255 ∧ 255 < (List.replicate 256 0#8).length ∧ (List.replicate 512 0#8).length ≤ 512 := by
  refine ⟨?_, ?_, ?_, ?_⟩ <;> rw [List.length_replicate] <;> decide
theorem witness_FrameIsInjective : Params.default.wf ∧ frame Params.default [] = some [0x02, 0x00, 0x00, 0x00, 0x03] := by decide
theorem witness_SendFramesAndEmptiesTheSendBuffer : opOf 0x4000000001 = 0x40#8 ∧ (idleAt 512).rxst = .idle ∧
    (idleAt 512).scur.toNat ≤ 512 := by decide
theorem witness_EveryAcceptedCountIsPossible :
    frame wIdle.params (wIdle.sb.readRange 0 wIdle.scur.toNat) = some [0x02, 0x01, 0x04, 0x40, 0x84, 0x03] ∧ 0 ≤ 6 ∧ 6 ≤ 6 := by
  decide +kernel
theorem witness_SendOfMoreThan512BytesIsRefused : (idleAt 513).rxst = .idle ∧ 512 < (idleAt 513).scur.toNat := by decide
theorem witness_DeframeRecoversTheFramedPayload : Params.default.wf ∧ ([] : List Byte).length ≤ 512 ∧
    (List.replicate 512 0#8).length ≤ 512 ∧ frame Params.default [] = some [0x02, 0x00, 0x00, 0x00, 0x03] :=
  ⟨by decide, by decide, by rw [List.length_replicate], by decide⟩
theorem witness_ProperPrefixOfAPacketIsIncomplete :
    frame Params.default [] = some [0x02, 0x00, 0x00, 0x00, 0x03] ∧ 0 < 5 ∧ 4 < 5 := by decide
theorem witness_VerdictDependsOnlyOnTheTakenBytes :
    deframe Params.default [0x55, 0x01] = .fail .frameBadStart 1 ∧
    deframe Params.default [0x02, 0x00, 0x00, 0x00, 0x03, 0xAA] = .ok [] 5 := by decide
theorem witness_SingleFlippedBitIsReported : Params.default.wf ∧ Params.default.crcPoly ≠ 0 ∧
    frame Params.default [] = some [0x02, 0x00, 0x00, 0x00, 0x03] ∧ (2 ≤ 2 ∧ 2 + 1 < 5) ∧ (2 ≤ 3 ∧ 3 + 1 < 5) ∧ 4 + 1 = 5 ∧
    byteAt (flipBit [0x02, 0x00, 0x00, 0x00, 0x03] 0 7) 0 ≠ Params.default.startShort ∧
    byteAt (flipBit [0x02, 0x00, 0x00, 0x00, 0x03] 0 7) 0 ≠ Params.default.startLong := by decide
theorem witness_RecvStartsAReceive : opOf 0x50FFFFFFFF = 0x50#8 ∧ wIdle.rxst = .idle := by decide
theorem witness_RxByteThatDoesNotCompleteOnlyStores : BlockInv (wLong 0x00) ∧ (wLong 0x00).inputs = .rxByte :: [] ∧
    (wLong 0x00).rxst = .receiving ∧ (wLong 0x00).rxBuf = 0x00 :: [] := ⟨wLong_inv _, rfl, rfl, rfl⟩
theorem witness_BadStartFailsAtTheFirstByte : ({ wRecv .rxByte with rxBuf := [0x55] } : State).rb.wf ∧
    (wRecv .rxByte).rxst = .receiving ∧ (wRecv .rxByte).rcnt = 0 ∧ 0x55 ≠ Params.default.startShort ∧
    0x55 ≠ Params.default.startLong := by decide
theorem witness_BadLengthFailsAtTheThirdByte : BlockInv (wLong 0x01) ∧ (wLong 0x01).rcnt = 2 ∧
    (wLong 0x01).rb.read 0 = (wLong 0x01).params.startLong ∧
    512 < ((wLong 0x01).rb.read 1).toNat * 256 + (0x01#8).toNat ∧ ((wLong 0x00).rb.read 1).toNat * 256 + (0x00#8).toNat ≤ 512 :=
  ⟨wLong_inv _, by decide, by decide, by decide, by decide⟩
theorem witness_LastByteValidatesTheFrame : BlockInv (wLast 0x84 0x03) ∧ (wLast 0x84 0x03).inputs = .rxByte :: [] ∧
    (wLast 0x84 0x03).rxst = .receiving ∧ (wLast 0x84 0x03).rxBuf = 0x03 :: [] ∧
    headerLen (wLast 0x84 0x03).params ((wLast 0x84 0x03).rb.read 0) = some 2 ∧
    1 = declaredLen 2 ((wLast 0x84 0x03).rb.read 1) ((wLast 0x84 0x03).rb.read 2) ∧
    (wLast 0x84 0x03).rcnt.toNat + 1 = 2 + 1 + 3 ∧ 0x03 = (wLast 0x84 0x03).params.stop ∧
    half ((wLast 0x84 0x03).rb.read 3) ((wLast 0x84 0x03).rb.read 4) =
      crc16 (wLast 0x84 0x03).params ((wLast 0x84 0x03).rb.readRange 2 1) :=
  ⟨wLast84_inv _, rfl, rfl, rfl, by decide, by decide, by decide, by decide, by decide +kernel⟩
theorem witness_LastByte_wrong_crc : BlockInv (wLast 0x85 0x03) ∧
    half ((wLast 0x85 0x03).rb.read 3) ((wLast 0x85 0x03).rb.read 4) ≠
      crc16 (wLast 0x85 0x03).params ((wLast 0x85 0x03).rb.readRange 2 1) :=
  ⟨wLast85_inv _, by decide +kernel⟩
theorem witness_LastByte_wrong_stop : BlockInv (wLast 0x84 0x04) ∧ 0x04 ≠ (wLast 0x84 0x04).params.stop :=
  ⟨wLast84_inv _, by decide⟩
theorem witness_TimeoutFailsAReceiveAtAnyPoint : (wRecv .timeout).inputs = .timeout :: [] ∧ (wRecv .timeout).rxst = .receiving ∧
    ({ wIdle with inputs := [.timeout] } : State).rxst = .idle := by decide
theorem witness_ByteAndTimeoutMayEachComeFirst : BlockInv (wLast 0x84 0x03) ∧ (wLast 0x84 0x03).rxst = .receiving ∧
    (wLast 0x84 0x03).rxBuf ≠ [] := ⟨wLast84_inv _, rfl, by decide⟩
theorem witness_FramesWaitWhileIdle : wIdle.rxst = .idle ∧
    ({ wIdle with inputs := [.arrive 0x02] } : State).inputs = .arrive 0x02 :: [] ∧
    ({ wIdle with inputs := [.rxByte] } : State).inputs = .rxByte :: [] := by decide
theorem witness_FrameCompletesAWaitingReceive : Params.default.wf ∧ (receivingWith [] []).rb.wf ∧ (receivingWith [] []).pb.wf ∧
    (receivingWith [] []).rxst = .receiving ∧ (receivingWith [] []).rcnt = 0 ∧ (receivingWith [] []).rxBuf = [] ∧
    Instr.wellFormed (.frameShort 0 [] 0x0000 0x03) = true ∧ Instr.wellFormed (.frameLong 1 [0x04] 0x4085 0x03) = true ∧
    0x0000 = crc16 Params.default [] ∧ 0x4085 ≠ crc16 Params.default [0x04] ∧ 0x04 ≠ Params.default.stop := by decide +kernel
theorem witness_AFrameCanArriveAtAnyTime : BlockInv wIdle ∧ BlockInv (wLast 0x84 0x03) := ⟨wIdle_inv, wLast84_inv _⟩
theorem witness_ReceiveAgreesWithDeframe : (wRecv (.wire [0x02])).rb.wf ∧ (wRecv (.wire [0x02])).pb.wf ∧
    (wRecv (.wire [0x02])).rxst = .receiving ∧ (wRecv (.wire [0x02])).rcnt = 0 ∧ (wRecv (.wire [0x02])).rxBuf = [] ∧
    deframe Params.default [0x02] = .incomplete ∧ deframe Params.default [0x55, 0x01] = .fail .frameBadStart 1 ∧
    deframe Params.default [0x02, 0x00, 0x00, 0x00, 0x03, 0xAA] = .ok [] 5 := by decide
theorem witness_WireDeliveryIsItsByteEvents : (wRecv (.wire [0x55, 0x01])).inputs = .wire [0x55, 0x01] :: [] ∧
    ∃ t, step (wRecv (.wire [0x55, 0x01])) = .next t := ⟨rfl, ⟨_, rfl⟩⟩
theorem witness_ReceiveEndsWithin518Bytes : BlockInv (wRecv (.wire (List.replicate 518 0x03))) ∧
    (wRecv (.wire (List.replicate 518 0x03))).rxst = .receiving ∧
    518 ≤ (wRecv (.wire (List.replicate 518 0x03))).rcnt.toNat + (wRecv (.wire (List.replicate 518 0x03))).rxBuf.length +
      (List.replicate 518 0x03#8).length :=
  ⟨wRecv_inv _, rfl, by rw [List.length_replicate]; decide⟩
theorem witness_RdsrAnswersTheRegister : opOf 0x6000000105 = 0x60#8 ∧ wIdle.rxst = .idle ∧ 6 < (7#8).toNat ∧ 6 < (255#8).toNat := by
  decide
theorem witness_StatusFollowsTheLastResponse : (∃ t, step { wIdle with inputs := [.reset] } = .next t) ∧
    (∃ t, step { wIdle with inputs := [.command 0x6000000007] } = .next t) ∧ opOf 0x6000000007 = 0x60#8 ∧
    (∃ t, step { wIdle with inputs := [.command 0x2300000000] } = .next t) ∧ opOf 0x2300000000 ≠ 0x60#8 :=
  ⟨⟨_, rfl⟩, ⟨_, rfl⟩, by decide, ⟨_, rfl⟩, by decide⟩
theorem witness_RefusedCommandHasNoEffect :
    (nextOf (exec .getU32 wIdle)).map (fun t => t.responses.map (·.status)) = some [.shortPayload] ∧
    (nextOf (exec (.appendU8 0) (idleAt 512))).map (fun t => t.responses.map (·.status)) = some [.bufferOverflow] ∧
    (nextOf (exec (.rdsr 9) wIdle)).map (fun t => t.responses.map (·.status)) = some [.range] := by decide
theorem witness_SendAndReceiveSidesAreIndependent : (∃ t, exec .recv wIdle = .next t) ∧ (∃ t, exec .send wIdle = .next t) ∧
    (wRecv .timeout).inputs = .timeout :: [] ∧ ∃ t, step (wRecv .timeout) = .next t :=
  ⟨⟨_, rfl⟩, ⟨_, rfl⟩, rfl, ⟨_, rfl⟩⟩
theorem witness_ParametersNeverChange : ∃ t, step { wIdle with inputs := [.reset] } = .next t := ⟨_, rfl⟩
theorem witness_ResetEventInAnyState : (wRecv .reset).inputs = .reset :: [] := rfl
theorem witness_EveryStepKeepsInv : BlockInv (wRecv .timeout) ∧ ∃ t, step (wRecv .timeout) = .next t :=
  ⟨wRecv_inv _, ⟨_, rfl⟩⟩
theorem witness_OnlyTheEnvironmentCanStopTheBlock : BlockInv wIdle ∧ BlockInv (wRecv .rxByte) := ⟨wIdle_inv, wRecv_inv _⟩
/-- The second state has an unreadable byte of `PB` changed. -/
theorem witness_UnreadableBytesNeverMatter :
    BlockInv (idleWith [0x04] [] 0) ∧ BlockInv { idleWith [0x04] [] 0 with pb := [(3, 0x07)] } ∧
    SameReadable (idleWith [0x04] [] 0) { idleWith [0x04] [] 0 with pb := [(3, 0x07)] } :=
  ⟨inv_of_idle rfl (by decide) (by decide), inv_of_idle rfl (by decide) (by decide),
    ⟨rfl, fun _ _ => rfl, fun a h => absurd (show a < 0 from h) (by omega), fun _ _ => rfl⟩⟩
theorem witness_SentIntegersComeBack : BlockInv { idleAt 0 with txAnswers := [518] } ∧
    ({ idleAt 0 with txAnswers := [518] } : State).txAnswers = 518 :: [] ∧
    (([(.u8, 4), (.i16, 0x8000), (.u32, 7)] : List (IntType × Word)).map fun it => it.1.width).sum ≤ 512 :=
  ⟨inv_of_idle rfl (by decide) (by decide), rfl, by decide⟩
theorem witness_ScaledRoundTripWithinHalfAUnit :
    appendScaled .toEven .u16 (.finite 400) 100 = some (.appendU16 40000) := by
  norm_num [appendScaled, scaledInteger, roundNearest, ScaledType.inRange, RoundTie.pick]
  decide

/-- An environment that gives `RECV`, then the timeout, then resets for ever. -/
def fairEnv : Nat → Input
  | 0 => .command 0x5000000000
  | 1 => .timeout
  | _ => .reset

/-- The states of its run, from an idle one. -/
def fairRun : Nat → State
  | 0 => State.reset
  | 1 => { State.reset with rxst := .receiving }
  | 2 => { State.reset with status := .frameTimeout, responses := [⟨.frameTimeout, 0⟩] }
  | _ => { State.reset with responses := [⟨.frameTimeout, 0⟩] }

theorem witness_EveryReceiveEndsWhenTheTimerIsFair :
    UnboundedRun fairEnv fairRun ∧ TimerFair fairEnv fairRun ∧ (fairRun 1).rxst = .receiving := by
  refine ⟨fun n => ?_, fun n h => ?_, rfl⟩
  · match n with
    | 0 => rfl
    | 1 => rfl
    | 2 => rfl
    | _ + 3 => rfl
  · have h3 : (fairRun (n + 3)).rxst = .receiving := h _ (by omega)
    cases h3

end Sys2Proof.Tests
end

section
/-! Encoding: the bits of a command word that its format does not use (30_encoding.md R83, R84, R86). Two words that agree
on a mask agree in every field the mask covers; the mask of a decoded instruction covers the operation code and each
operand field that its format reads. -/

namespace Sys2Proof

/-- Words that agree under a mask agree in a field that the mask covers. -/
theorem extractLsb'_eq_of_and_eq {n : Nat} {m x y : BitVec n} (h : x &&& m = y &&& m) (start len : Nat)
    (hm : m.extractLsb' start len = BitVec.allOnes len) : x.extractLsb' start len = y.extractLsb' start len := by
  simpa [BitVec.extractLsb'_and, hm] using congrArg (·.extractLsb' start len) h

theorem argOf_and_eq {m w w' : Word40} (h : w' &&& m = w &&& m) : argOf w' &&& argOf m = argOf w &&& argOf m := by
  simpa [argOf, BitVec.extractLsb'_and] using congrArg argOf h

/-- What the opcode map decodes to is a command, never a wire frame (R90). -/
theorem isCommand_of_decodeOp {op : Byte} {arg : Word} {i : Instr} (h : decodeOp op arg = .ok i) : i.isCommand = true := by
  unfold decodeOp at h
  split at h <;> cases h <;> rfl

/-- The format of a command uses all eight bits of the operation code (R80). -/
theorem opOf_usedMask {i : Instr} (h : i.isCommand = true) : opOf (usedMask i) = BitVec.allOnes 8 := by
  cases i
  case frameShort | frameLong => cases h
  all_goals simp [usedMask, opOf]

/-- With one operation code, two operands that agree on the bits of the format decode alike: the fields of format `R` are
`buf`, `off` and `len`, a narrow operand is cut to its low bits, and the other formats read all of `arg` or none of it
(R83, R84, R86). -/
theorem decodeOp_eq_of_and_eq {op : Byte} {arg arg' : Word} {i : Instr} (h : decodeOp op arg = .ok i)
    (ha : arg' &&& argOf (usedMask i) = arg &&& argOf (usedMask i)) : decodeOp op arg' = .ok i := by
  have field := extractLsb'_eq_of_and_eq ha
  unfold decodeOp at h ⊢
  split at h <;> cases h <;> simp only [usedMask] at field
  -- `CRC16`
  case h_1 => simp only [bufOf, offOf, lenOf, field 31 1 rfl, field 16 10 rfl, field 0 10 rfl]
  -- the operand's low 8, low 16 and all 32 bits: the appends by width, and `RDSR`
  case h_2 | h_5 | h_17 => rw [field 0 8 rfl]
  case h_3 | h_6 => rw [field 0 16 rfl]
  case h_4 | h_7 => simpa using field 0 32 rfl
  -- no operand
  all_goals rfl

/-- Two command words that agree on the bits used by the instruction of one of them decode to that instruction (R86). -/
theorem decodeCommand_eq_of_and_eq {w w' : Word40} {i : Instr} (h : decodeCommand w = .ok i)
    (hm : w' &&& usedMask i = w &&& usedMask i) : decodeCommand w' = .ok i := by
  have hop : opOf w' = opOf w := extractLsb'_eq_of_and_eq hm 32 8 (opOf_usedMask (isCommand_of_decodeOp h))
  have harg := decodeOp_eq_of_and_eq h (argOf_and_eq hm)
  rwa [← hop] at harg

namespace Machine

/-- Presented words that decode to one instruction give one step: both execute it. -/
theorem step_command_eq_of_decodeCommand {w w' : Word40} {i : Instr} (h : decodeCommand w = .ok i)
    (h' : decodeCommand w' = .ok i) (s : State) (rest : List Input) :
    step { s with inputs := .command w' :: rest } = step { s with inputs := .command w :: rest } := by
  rw [step_cons rfl, step_cons rfl]
  exact (runCommand_ok h').trans (runCommand_ok h).symm

/-- Settles O3: the word with other ignored bits decodes to the same instruction, and a step sees a command word only
through its decoding. -/
theorem ignoredBitsHaveNoEffect : Obligations.IgnoredBitsHaveNoEffect := by
  intro w w' i h hm
  have h' : decodeCommand w' = .ok i := decodeCommand_eq_of_and_eq h hm
  exact ⟨h', step_command_eq_of_decodeCommand h h'⟩

end Machine
end Sys2Proof
end

section
/-! Integrity Codec: the command `CRC16` (40_crc.md R104). Its word gives the three fields of format `R` (30_encoding.md
R83), and an idle block answers the CRC of a range inside the valid extent and refuses any other. -/

namespace Sys2Proof

/-- A field of the operand is a field of the command word, at the same bits (R80). -/
theorem extractLsb'_argOf (w : Word40) {start len : Nat} (h : start + len ≤ 32) :
    (argOf w).extractLsb' start len = w.extractLsb' start len := by
  rw [argOf, BitVec.extractLsb'_extractLsb'_of_le h]

/-- The word of `CRC16` carries `buf`, `off` and `len` at the bits of format `R` (R83, R90). -/
theorem decodeCommand_of_opOf_eq_crc16 {w : Word40} (h : opOf w = 0x10#8) :
    decodeCommand w = .ok (.crc16
      (if w.extractLsb' 31 1 = 1#1 then .pb else .sb) (w.extractLsb' 16 10) (w.extractLsb' 0 10)) :=
  calc decodeCommand w
      = .ok (.crc16 (bufOf (argOf w)) (offOf (argOf w)) (lenOf (argOf w))) := by rw [decodeCommand, h]; rfl
    _ = _ := by
      rw [bufOf, offOf, lenOf, extractLsb'_argOf w (by decide), extractLsb'_argOf w (by decide),
        extractLsb'_argOf w (by decide)]

namespace Machine

section
variable {s : State} {buf : BufSel} {off len : Cursor}

/-- A range inside the valid extent, and so inside the buffer, is fetched and its CRC answered. -/
theorem execCrc16_of_le_extent (hi : s.rxst = .idle) (hcap : s.extent buf ≤ (spaceOf buf).cap)
    (h : off.toNat + len.toNat ≤ s.extent buf) :
    execCrc16 buf off len s =
      .next (s.complete .ok ((crc16 s.params ((s.buffer buf).readRange off.toNat len.toNat)).setWidth 32)) := by
  rw [execCrc16, State.accept_idle hi, if_neg (Nat.not_lt.2 h), Memory.fetch_eq_some (h.trans hcap)]

/-- A range that leaves the valid extent is refused, whatever the buffer's capacity. -/
theorem execCrc16_of_extent_lt (hi : s.rxst = .idle) (h : s.extent buf < off.toNat + len.toNat) :
    execCrc16 buf off len s = .next (s.raise .range) := by
  rw [execCrc16, State.accept_idle hi, if_pos h]

end

/-- Settles O17: the word's fields are those of its operand, and the two cases of R104 are those of the range against the
valid extent. -/
theorem crc16AnswersTheCrcOfTheRange : Obligations.Crc16AnswersTheCrcOfTheRange := by
  refine ⟨fun w h => decodeCommand_of_opOf_eq_crc16 h, fun s buf off len hi hcap => ⟨fun hin => ?_, fun hout => ?_⟩⟩
  · exact execCrc16_of_le_extent hi hcap hin
  · exact ⟨s.unspecifiedData, execCrc16_of_extent_lt hi hout⟩

end Machine
end Sys2Proof
end

section
/-! Serializer: an append that does not fit (41_serializer.md R120). What an append answers is said once for each of its
two cases, of any width; each append command is one of them. -/

namespace Sys2Proof
namespace Machine

section
variable {s : State} {k w : Nat} {v : BitVec k}

/-- An append that would pass the capacity is refused: the state's `raise` is the whole answer (R120). -/
theorem State.append_of_sbCap_lt (hi : s.rxst = .idle) (h : Config.sbCap < s.scur.toNat + w) :
    s.append w v = .next (s.raise .bufferOverflow) := by
  rw [State.append, State.accept_idle hi, if_pos h]

/-- An append that fits writes big-endian at the cursor and answers the new cursor (R111). -/
theorem State.append_of_le_sbCap (hi : s.rxst = .idle) (h : s.scur.toNat + w ≤ Config.sbCap) :
    s.append w v = .next ({ s with
      sb := s.sb.writeRange s.scur.toNat (beBytes w v), scur := s.scur + BitVec.ofNat 10 w }.complete .ok
        ((s.scur + BitVec.ofNat 10 w).setWidth 32)) := by
  rw [State.append, State.accept_idle hi, if_neg (Nat.not_lt.2 h)]

/-- The cursor of an append that fits does not wrap: 512 is below the 1024 of its ten bits (R31). -/
theorem toNat_scur_add_of_le_sbCap (h : s.scur.toNat + w ≤ Config.sbCap) :
    (s.scur + BitVec.ofNat 10 w).toNat = s.scur.toNat + w := by
  have hlt : s.scur.toNat + w < 2 ^ 10 := h.trans_lt (by decide)
  rw [BitVec.toNat_add, BitVec.toNat_ofNat, Nat.add_mod_mod, Nat.mod_eq_of_lt hlt]

/-- A command that is an append fails when that append does not fit. -/
theorem failsWith_bufferOverflow {i : Instr} (hexec : exec i s = s.append w v) (hi : s.rxst = .idle)
    (h : Config.sbCap < s.scur.toNat + w) : FailsWith i .bufferOverflow s :=
  ⟨s.unspecifiedData, hexec.trans (State.append_of_sbCap_lt hi h)⟩

end

/-- Settles O19: the failure leaves the block idle and the cursor where it was, so a narrower append that fits is answered
as before it. -/
theorem appendThatDoesNotFitWritesNothing : Obligations.AppendThatDoesNotFitWritesNothing := by
  refine ⟨fun s t hi hover hfit v v' hexec => ?_, fun s hi => ⟨fun h v => ?_, fun h v => ?_, fun h v => ?_⟩⟩
  · have ht : t = s.raise .bufferOverflow :=
      Host.Outcome.next.inj (hexec.symm.trans (State.append_of_sbCap_lt hi hover))
    subst ht
    exact ⟨_, State.append_of_le_sbCap (s := s.raise .bufferOverflow) hi hfit, rfl, toNat_scur_add_of_le_sbCap hfit⟩
  · exact ⟨failsWith_bufferOverflow rfl hi h, failsWith_bufferOverflow rfl hi h⟩
  · exact ⟨failsWith_bufferOverflow rfl hi h, failsWith_bufferOverflow rfl hi h⟩
  · exact ⟨failsWith_bufferOverflow rfl hi h, failsWith_bufferOverflow rfl hi h⟩

end Machine
end Sys2Proof
end

section
/-! Deserializer: a read past the payload (42_deserializer.md R133). What a read answers is said once for each of its two
cases, of any width and either extension; each read command is one of them. -/

namespace Sys2Proof
namespace Machine

section
variable {s : State} {w : Nat} {signed : Bool}

/-- A read whose bytes are not all there is refused: the state's `raise` is the whole answer (R133). -/
theorem State.get_of_plen_lt (hi : s.rxst = .idle) (h : s.plen.toNat < s.pcur.toNat + w) :
    s.get w signed = .next (s.raise .shortPayload) := by
  rw [State.get, State.accept_idle hi, if_pos h]

/-- A read whose bytes are there answers their extended value and advances the cursor (R126). -/
theorem State.get_of_le_plen (hi : s.rxst = .idle) (hcap : s.plen.toNat ≤ Config.pbCap)
    (h : s.pcur.toNat + w ≤ s.plen.toNat) :
    s.get w signed = .next ({ s with pcur := s.pcur + BitVec.ofNat 10 w }.complete .ok
      (extendTo32 w signed (s.pb.readRange s.pcur.toNat w))) := by
  rw [State.get, State.accept_idle hi, if_neg (Nat.not_lt.2 h), Memory.fetch_eq_some (h.trans hcap)]

/-- The cursor of a read whose bytes are there does not wrap: it stays within `PLEN`, of the same ten bits (R31). -/
theorem toNat_pcur_add_of_le_plen (h : s.pcur.toNat + w ≤ s.plen.toNat) :
    (s.pcur + BitVec.ofNat 10 w).toNat = s.pcur.toNat + w := by
  have hlt : s.pcur.toNat + w < 2 ^ 10 := h.trans_lt s.plen.isLt
  rw [BitVec.toNat_add, BitVec.toNat_ofNat, Nat.add_mod_mod, Nat.mod_eq_of_lt hlt]

/-- A command that is a read fails when its bytes are not all there. -/
theorem failsWith_shortPayload {i : Instr} (hexec : exec i s = s.get w signed) (hi : s.rxst = .idle)
    (h : s.plen.toNat < s.pcur.toNat + w) : FailsWith i .shortPayload s :=
  ⟨s.unspecifiedData, hexec.trans (State.get_of_plen_lt hi h)⟩

/-- A raised status leaves no trace in the next read: whatever it is, a read whose bytes are there succeeds from the
cursor as it was (R133: the failure is not sticky). -/
theorem State.get_raise_succeeds {st : Status} (hi : s.rxst = .idle) (hcap : s.plen.toNat ≤ Config.pbCap)
    (h : s.pcur.toNat + w ≤ s.plen.toNat) :
    ∃ u, (s.raise st).get w signed = .next u ∧ u.status = .ok ∧ u.pcur.toNat = s.pcur.toNat + w :=
  ⟨_, State.get_of_le_plen (s := s.raise st) hi hcap h, rfl, toNat_pcur_add_of_le_plen h⟩

end

/-- Settles O23: a failed `GET_U32` leaves the block idle with `PCUR`, `PLEN` and `PB` as they were, so a narrower read
whose bytes are there is answered as before it. -/
theorem readPastThePayloadConsumesNothing : Obligations.ReadPastThePayloadConsumesNothing := by
  refine ⟨fun s hi => ⟨fun h => ?_, fun h => ?_, fun h => ?_⟩, fun s t hinv hi hshort hexec => ?_⟩
  · exact ⟨failsWith_shortPayload rfl hi h, failsWith_shortPayload rfl hi h⟩
  · exact ⟨failsWith_shortPayload rfl hi h, failsWith_shortPayload rfl hi h⟩
  · exact ⟨failsWith_shortPayload rfl hi h, failsWith_shortPayload rfl hi h⟩
  · have ht : t = s.raise .shortPayload :=
      Host.Outcome.next.inj (hexec.symm.trans (State.get_of_plen_lt hi hshort))
    subst ht
    exact ⟨State.get_raise_succeeds hi hinv.plen_le, State.get_raise_succeeds hi hinv.plen_le⟩

end Machine
end Sys2Proof
end

section
/-! Framer: the fields of a packet (43_framer.md R140). Where the payload, the CRC field and the stop marker stand in a
frame's body is said once (R71, R72, R76); the two forms put a header of two or of three bytes before it. -/

namespace Sys2Proof

section
variable (P : List Byte) (c : Half) (stop : Byte)

theorem frameBody_getElem?_payload {k : Nat} (h : k < P.length) : (frameBody P c stop)[k]? = some P[k] := by
  rw [frameBody, List.getElem?_append_left h, List.getElem?_eq_getElem h]

/-- After the payload stand the three bytes of the trailer. -/
theorem frameBody_getElem?_length_add (j : Nat) :
    (frameBody P c stop)[P.length + j]? = [hiByte c, loByte c, stop][j]? := by
  rw [frameBody, List.getElem?_append_right (Nat.le_add_right _ _), Nat.add_sub_cancel_left]

end

namespace Machine

section
variable {p : Params} {P : List Byte}

/-- A payload of at most 255 bytes takes the short form, its length in one byte (R71). -/
theorem frame_eq_frameShortBytes (h : P.length ≤ Config.shortMax) :
    frame p P = some (frameShortBytes p (BitVec.ofNat 8 P.length) P (crc16 p P) p.stop) := by
  rw [frame_isSome (h.trans (by decide)), frameHeader, if_pos h]
  rfl

/-- A longer payload that has a packet takes the long form: here its header as `frame` writes it, the quotient and the
remainder of the length by 256. -/
theorem frame_eq_longForm (hlong : Config.shortMax < P.length) (h : P.length ≤ Config.maxPayload) :
    frame p P = some (p.startLong :: BitVec.ofNat 8 (P.length / 256) :: BitVec.ofNat 8 (P.length % 256) ::
      frameBody P (crc16 p P) p.stop) := by
  rw [frame_isSome h, frameHeader, if_neg (Nat.not_le.2 hlong)]
  rfl

end

/-- Settles O24: each form is a header of known length before the body, so a field of the body stands at its place in the
body plus that length. -/
theorem frameFieldsStandAtTheirPositions : Obligations.FrameFieldsStandAtTheirPositions := by
  intro p P
  have payload (k : Nat) (h : k < P.length) := frameBody_getElem?_payload P (crc16 p P) p.stop h
  have trailer := frameBody_getElem?_length_add P (crc16 p P) p.stop
  refine ⟨frame_isNone, fun hshort => ?short, fun hlong hmax => ?long⟩
  case short =>
    refine ⟨_, frame_eq_frameShortBytes hshort, by simp [frameShortBytes], rfl, rfl, fun k h => ?_,
      trailer 0, trailer 1, trailer 2⟩
    rw [Nat.add_comm]
    exact payload k h
  case long =>
    refine ⟨_, frame_eq_longForm hlong hmax, by simp, rfl, rfl, rfl, fun k h => ?_,
      trailer 0, trailer 1, trailer 2⟩
    rw [Nat.add_comm]
    exact payload k h

end Machine
end Sys2Proof
end

section
/-! System commands: a reserved operation code and `RDSR` (45_system.md R171, R172). A word whose operation code is not in
the opcode map is rejected by the decoder, and an idle block answers it by `raise`; a word of `RDSR` decodes to the register
number, and an idle block answers what `readSr` reads. -/

namespace Sys2Proof

theorem mem_definedOps_of_toNat_eq {op : Byte} {n : Nat} (hn : BitVec.ofNat 8 n ∈ definedOps) (h : op.toNat = n) :
    op ∈ definedOps := by
  subst h
  simpa using hn

/-- Every arm of the opcode map but the last is of a defined operation code (R85, R90). -/
theorem decodeOp_of_notMem_definedOps {op : Byte} (h : op ∉ definedOps) (arg : Word) :
    decodeOp op arg = .error (.reservedOp op) := by
  unfold decodeOp
  split
  case h_18 => rfl
  all_goals
    next hop => exact h.elim (mem_definedOps_of_toNat_eq (by decide) hop)

/-- The word of `RDSR` carries the register number in its low byte (R84, R90). -/
theorem decodeCommand_of_opOf_eq_rdsr {w : Word40} (h : opOf w = 0x60#8) :
    decodeCommand w = .ok (.rdsr (w.extractLsb' 0 8)) :=
  calc decodeCommand w
      = .ok (.rdsr ((argOf w).extractLsb' 0 8)) := by rw [decodeCommand, h]; rfl
    _ = _ := by rw [extractLsb'_argOf w (by decide)]

/-- The bits put before a word of `n` bits count `2 ^ n` each. -/
theorem toNat_append_eq_mul_add {m n : Nat} (a : BitVec m) (b : BitVec n) :
    (a ++ b).toNat = a.toNat * 2 ^ n + b.toNat := by
  rw [BitVec.toNat_append, ← Nat.shiftLeft_add_eq_or_of_lt b.isLt, Nat.shiftLeft_eq]

namespace Machine

section
variable {s : State} {n : Byte}

theorem illegalCommand_of_idle (hi : s.rxst = .idle) : illegalCommand s = .next (s.raise .illegalCommand) :=
  State.accept_idle hi _

theorem exec_rdsr_of_readSr_eq_some {v : Word} (hi : s.rxst = .idle) (h : s.readSr n = some v) :
    exec (.rdsr n) s = .next (s.respond .ok v) := by
  rw [exec, execRdsr, State.accept_idle hi, h]

theorem exec_rdsr_of_readSr_eq_none (hi : s.rxst = .idle) (h : s.readSr n = none) :
    exec (.rdsr n) s = .next (s.respond .range s.unspecifiedData).drawn := by
  rw [exec, execRdsr, State.accept_idle hi, h]

/-- The numbers 7 to 255 are reserved (R37). -/
theorem State.readSr_eq_none (h : 6 < n.toNat) : s.readSr n = none := by
  unfold State.readSr
  split
  case h_8 => rfl
  all_goals omega

/-- `CRCCFG`: the initial value in the high half, the polynomial in the low half (R35). -/
theorem State.readSr_crccfg :
    s.readSr 5 = some (BitVec.ofNat 32 (s.params.crcInit.toNat * 65536 + s.params.crcPoly.toNat)) := by
  refine congrArg some (BitVec.eq_of_toNat_eq ?_)
  rw [toNat_append_eq_mul_add, BitVec.toNat_ofNat]
  omega

/-- `MARKERS`: a zero byte, then the stop marker, the long and the short start marker (R36). -/
theorem State.readSr_markers :
    s.readSr 6 = some (BitVec.ofNat 32
      (s.params.stop.toNat * 65536 + s.params.startLong.toNat * 256 + s.params.startShort.toNat)) := by
  refine congrArg some (BitVec.eq_of_toNat_eq ?_)
  simp only [toNat_append_eq_mul_add, BitVec.toNat_ofNat]
  omega

end

/-- Settles O9: the decoder rejects the word, so the step is `illegalCommand`, whose `raise` is the whole answer. -/
theorem illegalCommandChangesOnlyStatus : Obligations.IllegalCommandChangesOnlyStatus := by
  intro s w rest hs hop hi
  refine ⟨s.unspecifiedData, ?_⟩
  calc step s
      = runCommand w { s with inputs := rest } := step_cons hs
    _ = illegalCommand { s with inputs := rest } := runCommand_error (decodeOp_of_notMem_definedOps hop _)
    _ = _ := illegalCommand_of_idle hi

/-- Settles O46: the word's register number is that of its operand, and `RDSR` answers what `readSr` reads. -/
theorem rdsrAnswersTheRegister : Obligations.RdsrAnswersTheRegister := by
  refine ⟨fun w h => decodeCommand_of_opOf_eq_rdsr h, fun s hi => ?_⟩
  have register {n : Byte} {v : Word} (h : s.readSr n = some v) := exec_rdsr_of_readSr_eq_some hi h
  exact ⟨register rfl, register rfl, register rfl, register rfl, register rfl, register State.readSr_crccfg,
    register State.readSr_markers,
    fun n hn => ⟨s.unspecifiedData, exec_rdsr_of_readSr_eq_none hi (State.readSr_eq_none hn)⟩⟩

end Machine
end Sys2Proof
end

section
/-! System commands: `STATUS` and the responses (45_system.md R173). A step either answers nothing and leaves `STATUS`, or
answers once and `STATUS` is the status answered. For the bytes of a wire input this needs that the answer ends the
receive, so that no second one follows. -/

namespace Sys2Proof

/-- What the wire decodes to is a frame, never a command (R71, R72). -/
theorem isCommand_of_decodeFrame {p : Params} {bs rest : List Byte} {i : Instr} (h : decodeFrame p bs = .ok (i, rest)) :
    i.isCommand = false := by
  unfold decodeFrame at h
  dsimp only at h
  repeat' split at h
  all_goals cases h
  -- the two forms
  · rfl
  · rfl

theorem isCommand_of_decode_wire {p : Params} {bs : List Byte} {i : Instr} (h : decode p (.wire bs) = .ok i) :
    i.isCommand = false := by
  rw [decode] at h
  split at h
  · next heq =>
    cases h
    exact isCommand_of_decodeFrame heq
  · cases h
  · cases h

/-- Only the operation code 0x60 decodes to `RDSR` (R90). -/
theorem opOf_eq_of_decodeCommand_eq_rdsr {w : Word40} {n : Byte} (h : decodeCommand w = .ok (.rdsr n)) :
    opOf w = 0x60#8 := by
  unfold decodeCommand decodeOp at h
  split at h
  case h_17 hop => exact BitVec.eq_of_toNat_eq hop
  all_goals cases h

namespace Machine

/-- From `s` to `t` no response was emitted, and `STATUS` is what it was. -/
def NoAnswer (s t : State) : Prop := t.responses = s.responses ∧ t.status = s.status

/-- From `s` to `t` one response was emitted, and `STATUS` is its status. -/
def OneAnswer (s t : State) : Prop := ∃ r, t.responses = s.responses ++ [r] ∧ t.status = r.status

section
variable {s t : State}

/-! ## Commands -/

theorem State.append_oneAnswer {k w : Nat} {v : BitVec k} (h : s.append w v = .next t) : OneAnswer s t := by
  obtain ⟨-, ⟨-, rfl⟩ | ⟨-, rfl⟩⟩ := State.append_eq_next h
  · exact ⟨_, rfl, rfl⟩
  · exact ⟨_, rfl, rfl⟩

theorem State.get_oneAnswer {w : Nat} {signed : Bool} (h : s.get w signed = .next t) : OneAnswer s t := by
  obtain ⟨-, ⟨-, rfl⟩ | ⟨-, -, rfl⟩⟩ := State.get_eq_next h
  · exact ⟨_, rfl, rfl⟩
  · exact ⟨_, rfl, rfl⟩

theorem execCrc16_oneAnswer {buf : BufSel} {off len : Cursor} (h : execCrc16 buf off len s = .next t) :
    OneAnswer s t := by
  obtain ⟨-, ⟨-, rfl⟩ | ⟨-, -, rfl⟩⟩ := execCrc16_eq_next h
  · exact ⟨_, rfl, rfl⟩
  · exact ⟨_, rfl, rfl⟩

theorem execTxclr_oneAnswer (h : execTxclr s = .next t) : OneAnswer s t := by
  obtain ⟨-, rfl⟩ := execTxclr_eq_next h
  exact ⟨_, rfl, rfl⟩

theorem execSend_oneAnswer (h : execSend s = .next t) : OneAnswer s t := by
  obtain ⟨-, pkt, -, rfl⟩ := execSend_eq_next h
  exact ⟨_, rfl, rfl⟩

theorem illegalCommand_oneAnswer (h : illegalCommand s = .next t) : OneAnswer s t := by
  obtain ⟨-, rfl⟩ := illegalCommand_eq_next h
  exact ⟨_, rfl, rfl⟩

theorem execRecv_noAnswer (h : execRecv s = .next t) : NoAnswer s t := by
  obtain ⟨-, rfl⟩ := execRecv_eq_next h
  exact ⟨rfl, rfl⟩

/-- `RDSR` answers once and does not write `STATUS` (R171). -/
theorem execRdsr_keeps_status {n : Byte} (h : execRdsr n s = .next t) :
    t.status = s.status ∧ ∃ r, t.responses = s.responses ++ [r] := by
  obtain ⟨-, ⟨v, -, rfl⟩ | ⟨-, rfl⟩⟩ := execRdsr_eq_next h
  · exact ⟨rfl, _, rfl⟩
  · exact ⟨rfl, _, rfl⟩

/-- Every command but `RECV` and `RDSR` answers once and writes `STATUS`; `RECV` does neither. -/
theorem exec_command_answers {i : Instr} (hc : i.isCommand = true) (hr : ∀ n, i ≠ .rdsr n) (h : exec i s = .next t) :
    NoAnswer s t ∨ OneAnswer s t := by
  cases i with
  | crc16 => exact .inr (execCrc16_oneAnswer h)
  | appendU8 | appendU16 | appendU32 | appendI8 | appendI16 | appendI32 => exact .inr (State.append_oneAnswer h)
  | txclr => exact .inr (execTxclr_oneAnswer h)
  | getU8 | getU16 | getU32 | getI8 | getI16 | getI32 => exact .inr (State.get_oneAnswer h)
  | send => exact .inr (execSend_oneAnswer h)
  | recv => exact .inl (execRecv_noAnswer h)
  | rdsr n => exact absurd rfl (hr n)
  | frameShort | frameLong => cases hc

theorem runCommand_answers {w : Word40} (hop : opOf w ≠ 0x60#8) (h : runCommand w s = .next t) :
    NoAnswer s t ∨ OneAnswer s t := by
  cases hd : decodeCommand w with
  | ok i =>
    rw [runCommand_ok hd] at h
    refine exec_command_answers (isCommand_of_decodeOp hd) (fun n hi => ?_) h
    subst hi
    exact hop (opOf_eq_of_decodeCommand_eq_rdsr hd)
  | error e =>
    rw [runCommand_error hd] at h
    exact .inr (illegalCommand_oneAnswer h)

/-! ## Bytes of the wire -/

/-- A byte taken answers nothing, or it ends the receive with one answer. -/
theorem State.takeByte_answers {b : Byte} (h : s.takeByte b = .next t) :
    NoAnswer s t ∨ t.rxst = .idle ∧ OneAnswer s t := by
  obtain ⟨-, rfl⟩ := State.takeByte_eq_next h
  obtain ⟨st, hf, -⟩ | ⟨n, -, -, hok⟩ | ⟨hwait, -⟩ := (s.storeReceived b).checkReceived_cases
  · rw [hf]
    exact .inr ⟨rfl, _, rfl, rfl⟩
  · rw [hok]
    exact .inr ⟨rfl, _, rfl, rfl⟩
  · rw [hwait]
    exact .inl ⟨rfl, rfl⟩

/-- The waiting bytes taken answer nothing or once: after an answer the block is idle and takes no more (R160). -/
theorem takeWaiting_answers {bs : List Byte} (h : takeWaiting bs s = .next t) : NoAnswer s t ∨ OneAnswer s t := by
  have hkeep : NoAnswer s t ∨ t.rxst = .idle ∧ OneAnswer s t := by
    refine takeWaiting_keeps (P := fun u => NoAnswer s u ∨ u.rxst = .idle ∧ OneAnswer s u) ?_ bs s t (.inl ⟨rfl, rfl⟩) h
    intro u v b rest hu hrecv htake
    obtain ⟨hresp, hst⟩ | ⟨hidle, -⟩ := hu
    · simpa only [NoAnswer, OneAnswer, hresp, hst] using State.takeByte_answers htake
    · cases hrecv.symm.trans hidle
  exact hkeep.imp_right And.right

theorem State.deliver_answers {bs : List Byte} (h : s.deliver bs = .next t) : NoAnswer s t ∨ OneAnswer s t :=
  takeWaiting_answers (s := { s with rxBuf := s.rxBuf ++ bs }) h

/-- Wire bytes are delivered, whether they are a frame or not. -/
theorem runWire_eq_deliver (bs : List Byte) (s : State) : ∃ bs', runWire bs s = s.deliver bs' := by
  unfold runWire
  split
  · next i hd =>
    have hframe := isCommand_of_decode_wire hd
    cases i
    case frameShort | frameLong => exact ⟨_, rfl⟩
    all_goals cases hframe
  · exact ⟨bs, rfl⟩

/-! ## One input -/

/-- An input other than reset and an `RDSR` word answers nothing and leaves `STATUS`, or answers once and writes it. -/
theorem runInput_answers {x : Input} (hreset : x ≠ .reset) (hrdsr : ∀ w, x = .command w → opOf w ≠ 0x60#8)
    (h : runInput x s = .next t) : NoAnswer s t ∨ OneAnswer s t := by
  cases x with
  | command w => exact runCommand_answers (hrdsr w rfl) h
  | arrive b =>
    cases h
    exact .inl ⟨rfl, rfl⟩
  | rxByte =>
    obtain ⟨-, b, rest, -, htake⟩ := eventRxByte_eq_next h
    exact (State.takeByte_answers htake).imp_right And.right
  | wire bs =>
    obtain ⟨bs', hbs⟩ := runWire_eq_deliver bs s
    exact State.deliver_answers (hbs.symm.trans h)
  | timeout =>
    obtain ⟨-, rfl⟩ := eventTimeout_eq_next h
    exact .inr ⟨_, rfl, rfl⟩
  | reset => exact absurd rfl hreset

end

/-- Settles O47: a step is the run of its input, from a state with the same `STATUS` and responses. -/
theorem statusFollowsTheLastResponse : Obligations.StatusFollowsTheLastResponse := by
  intro s t x rest hs h
  rw [step_cons hs] at h
  refine ⟨?reset, ?rdsr, fun hreset hrdsr => runInput_answers (s := { s with inputs := rest }) hreset hrdsr h⟩
  case reset =>
    rintro rfl
    cases h
    exact ⟨rfl, rfl⟩
  case rdsr =>
    rintro w rfl hop
    rw [runInput, runCommand_ok (decodeCommand_of_opOf_eq_rdsr hop)] at h
    exact execRdsr_keeps_status (s := { s with inputs := rest }) h

end Machine
end Sys2Proof
end

section
/-! Reset: the reset event (70_reset_and_hazards.md R220, R221). It has no guard, so a reset presented always has a step,
and that step's state is the reset one with the parameters and what is not the block's own carried over. -/

namespace Sys2Proof
namespace Machine

/-- A presented reset runs, whatever the receive state (R221). -/
theorem step_of_inputs_eq_reset {s : State} {rest : List Input} (h : s.inputs = .reset :: rest) :
    step s = eventReset { s with inputs := rest } :=
  step_cons h

/-- Settles O52: the step is `eventReset`, with `RXST` left open, so it is the same for an idle and a receiving block. Each
clause is then a field of its next state, one that `State.reset` gives or one carried over from `s`. -/
theorem resetEventInAnyState : Obligations.ResetEventInAnyState := by
  intro s rest hs
  exact ⟨_, step_of_inputs_eq_reset hs, rfl, rfl, rfl, rfl, rfl, rfl, rfl, rfl, rfl, rfl, rfl, rfl, rfl⟩

end Machine
end Sys2Proof
end

section
/-! Encoding: the decoder and the encoder undo one another (30_encoding.md R71, R72, R80 to R86, R90). A command word is its
operation code and its operand, and each format is one way of masking the operand; a frame is a header and a body. -/

namespace Sys2Proof

/-! ## Operands -/

/-- The low bits of an operand, put back, are the operand under the mask of those bits. -/
theorem setWidth_extractLsb'_eq_and {n : Nat} (x : BitVec n) (k : Nat) :
    (x.extractLsb' 0 k).setWidth n = x &&& (BitVec.allOnes k).setWidth n := by
  apply BitVec.eq_of_getLsbD_eq
  intro j hj
  simp [hj, Bool.and_comm]

/-- The low bits of a widened operand are the operand (R84). -/
@[simp] theorem extractLsb'_setWidth_self {n m : Nat} (v : BitVec n) (h : n ≤ m) :
    (v.setWidth m).extractLsb' 0 n = v := by
  rw [BitVec.extractLsb'_setWidth_of_le (by omega), BitVec.extractLsb'_eq_self]

/-- Bit 31 of the range operand is the buffer select (R83). -/
theorem bufOf_bit (arg : Word) :
    (match bufOf arg with | .sb => 0#1 | .pb => 1#1) = arg.extractLsb' 31 1 := by
  have hbit : arg.extractLsb' 31 1 = 0#1 ∨ arg.extractLsb' 31 1 = 1#1 := by
    generalize arg.extractLsb' 31 1 = b
    revert b
    decide
  unfold bufOf
  rcases hbit with h | h
  · simp [h]
  · simp [h]

/-- An operand is the five fields of format `R`, the two that are ignored among them (R83). -/
theorem eq_append_fields (arg : Word) :
    arg = arg.extractLsb' 31 1 ++ (arg.extractLsb' 26 5 ++ (offOf arg ++ (arg.extractLsb' 10 6 ++ lenOf arg))) := by
  have hlow : arg.extractLsb' 10 6 ++ lenOf arg = arg.extractLsb' 0 16 :=
    BitVec.extractLsb'_append_extractLsb'_eq_extractLsb' rfl
  have hoff : offOf arg ++ arg.extractLsb' 0 16 = arg.extractLsb' 0 26 :=
    BitVec.extractLsb'_append_extractLsb'_eq_extractLsb' rfl
  have hmid : arg.extractLsb' 26 5 ++ arg.extractLsb' 0 26 = arg.extractLsb' 0 31 :=
    BitVec.extractLsb'_append_extractLsb'_eq_extractLsb' rfl
  have htop : arg.extractLsb' 31 1 ++ arg.extractLsb' 0 31 = arg.extractLsb' 0 32 :=
    BitVec.extractLsb'_append_extractLsb'_eq_extractLsb' rfl
  rw [hlow, hoff, hmid, htop, BitVec.extractLsb'_eq_self]

/-- The fields of format `R`, put back, are the operand under the mask of the format (R83, R86). -/
theorem rangeArg_fields (arg : Word) :
    rangeArg (bufOf arg) (offOf arg) (lenOf arg) = arg &&& 0x83FF03FF#32 := by
  have hmask : BitVec.allOnes 1 ++ (0#5 ++ (BitVec.allOnes 10 ++ (0#6 ++ BitVec.allOnes 10))) = 0x83FF03FF#32 := by decide
  calc rangeArg (bufOf arg) (offOf arg) (lenOf arg)
      = arg.extractLsb' 31 1 ++ (0#5 ++ (offOf arg ++ (0#6 ++ lenOf arg))) := congrArg (· ++ _) (bufOf_bit arg)
    _ = (arg.extractLsb' 31 1 ++ (arg.extractLsb' 26 5 ++ (offOf arg ++ (arg.extractLsb' 10 6 ++ lenOf arg)))) &&&
          (BitVec.allOnes 1 ++ (0#5 ++ (BitVec.allOnes 10 ++ (0#6 ++ BitVec.allOnes 10)))) := by
      simp only [BitVec.and_append, BitVec.and_allOnes, BitVec.and_zero]
    _ = arg &&& 0x83FF03FF#32 := congrArg₂ (· &&& ·) (eq_append_fields arg).symm hmask

theorem commandWord_and (op : Byte) (arg m : Word) : commandWord op arg &&& commandWord 0xFF#8 m = commandWord op (arg &&& m) := by
  unfold commandWord
  rw [BitVec.and_append]
  exact congrArg (· ++ (arg &&& m)) BitVec.and_allOnes

/-- The mask of a command is its operation code's eight bits and those of its operand (R83). -/
theorem usedMask_eq {i : Instr} (h : i.isCommand = true) : usedMask i = commandWord 0xFF#8 (argOf (usedMask i)) := by
  have hop : opOf (usedMask i) = 0xFF#8 := opOf_usedMask h
  rw [← hop, commandWord_opOf_argOf]

/-! ## Command words -/

theorem decode_encode_of_isCommand (p : Params) {i : Instr} (h : i.isCommand = true) : decode p (encode p i) = .ok i := by
  cases i
  case frameShort | frameLong => cases h
  all_goals simp [encode, decode, decodeCommand_commandWord, decodeOp]

theorem eq_ofNat_of_toNat_eq {w n : Nat} {x : BitVec w} (h : x.toNat = n) : x = BitVec.ofNat w n := by
  rw [← h, BitVec.ofNat_toNat, BitVec.setWidth_eq]

/-- What an operation code decodes to is encoded as that code with the operand under the mask (R83, R90). -/
theorem encode_of_decodeOp (p : Params) {op : Byte} {arg : Word} {i : Instr} (h : decodeOp op arg = .ok i) :
    encode p i = .command (commandWord op (arg &&& argOf (usedMask i))) := by
  have range : argOf 0xFF83FF03FF#40 = 0x83FF03FF#32 := by decide
  have low8 : argOf 0xFF000000FF#40 = (BitVec.allOnes 8).setWidth 32 := by decide
  have low16 : argOf 0xFF0000FFFF#40 = (BitVec.allOnes 16).setWidth 32 := by decide
  unfold decodeOp at h
  split at h
  case h_18 => cases h
  all_goals
    rename_i hop
    rw [eq_ofNat_of_toNat_eq hop]
    cases h
    refine congrArg (fun a => Code.command (commandWord _ a)) ?_
  -- `CRC16`
  case h_1 => rw [rangeArg_fields, usedMask, range]
  -- all of `arg`
  case h_4 | h_7 => rw [usedMask]; exact BitVec.and_allOnes.symm
  -- its low 8, its low 16 bits
  case h_2 | h_5 | h_17 => rw [setWidth_extractLsb'_eq_and, usedMask, low8]
  case h_3 | h_6 => rw [setWidth_extractLsb'_eq_and, usedMask, low16]
  -- none of it
  all_goals exact BitVec.and_zero.symm

/-- Each of the 17 operation codes decodes, whatever the operand (R90). -/
theorem decodeOp_of_mem_definedOps {op : Byte} (h : op ∈ definedOps) (arg : Word) : ∃ i, decodeOp op arg = .ok i := by
  simp only [definedOps, List.mem_cons, List.not_mem_nil, or_false] at h
  rcases h with rfl | rfl | rfl | rfl | rfl | rfl | rfl | rfl | rfl | rfl | rfl | rfl | rfl | rfl | rfl | rfl | rfl
  all_goals exact ⟨_, rfl⟩

/-! ## Frames -/

section
variable {p : Params}

/-- The bytes of a short form and what follows decode to it and the rest (R71). -/
theorem decodeFrame_frameShortBytes {len : Byte} {P : List Byte} (hlen : P.length = len.toNat) (c : Half) (stop : Byte)
    (rest : List Byte) :
    decodeFrame p (frameShortBytes p len P c stop ++ rest) = .ok (.frameShort len P c stop, rest) := by
  have hbody := splitBody_frameBody P c stop rest
  rw [hlen] at hbody
  simp [decodeFrame, frameShortBytes, hbody]

/-- The bytes of a long form and what follows decode to it and the rest (R72). -/
theorem decodeFrame_frameLongBytes (hp : p.wf) {len : Half} {P : List Byte} (hlen : P.length = len.toNat)
    (hmax : len.toNat ≤ Config.maxPayload) (c : Half) (stop : Byte) (rest : List Byte) :
    decodeFrame p (frameLongBytes p len P c stop ++ rest) = .ok (.frameLong len P c stop, rest) := by
  have hbody := splitBody_frameBody P c stop rest
  rw [hlen] at hbody
  simp [decodeFrame, frameLongBytes, hbody, Ne.symm hp, Nat.not_lt.2 hmax]

/-- Wire bytes that decode are the bytes of a well-formed frame, in one of the two forms, and what follows. -/
theorem decodeFrame_eq_ok {bs rest : List Byte} {i : Instr} (h : decodeFrame p bs = .ok (i, rest)) :
    (∃ len P c stop, P.length = len.toNat ∧ i = .frameShort len P c stop ∧
      bs = frameShortBytes p len P c stop ++ rest) ∨
    (∃ len P c stop, P.length = len.toNat ∧ len.toNat ≤ Config.maxPayload ∧ i = .frameLong len P c stop ∧
      bs = frameLongBytes p len P c stop ++ rest) := by
  unfold decodeFrame at h
  dsimp only at h
  repeat' split at h
  all_goals cases h
  · rename_i hstart _ len _ _ _ _ _ hsplit
    obtain ⟨hlen, rfl⟩ := eq_of_splitBody hsplit
    exact .inl ⟨len, _, _, _, hlen, rfl, by rw [hstart]; rfl⟩
  · rename_i hstart _ hi lo _ hmax _ _ _ _ hsplit
    obtain ⟨hlen, rfl⟩ := eq_of_splitBody hsplit
    exact .inr ⟨half hi lo, _, _, _, hlen, Nat.not_lt.1 hmax, rfl, by simp [frameLongBytes, hstart]⟩

/-- Wire bytes that decode are exactly the bytes of the frame they decode to. -/
theorem encode_of_decode_wire {bs : List Byte} {i : Instr} (h : decode p (.wire bs) = .ok i) : encode p i = .wire bs := by
  unfold decode at h
  dsimp only at h
  split at h
  · rename_i hf
    cases h
    obtain ⟨len, P, c, stop, -, rfl, rfl⟩ | ⟨len, P, c, stop, -, -, rfl, rfl⟩ := decodeFrame_eq_ok hf
    · simp [encode]
    · simp [encode]
  · cases h
  · cases h

end

/-! ## The obligations -/

/-- Settles O1: a command is read back by its fields, a frame by counting its length from its header. -/
theorem decodeInvertsEncode : Obligations.DecodeInvertsEncode := by
  intro p hp i hwf
  cases i
  case frameShort len P c stop =>
    have h := decodeFrame_frameShortBytes (p := p) (by simpa [Instr.wellFormed] using hwf) c stop []
    rw [List.append_nil] at h
    rw [encode, decode, h]
  case frameLong len P c stop =>
    obtain ⟨hlen, hmax⟩ : P.length = len.toNat ∧ len.toNat ≤ Config.maxPayload := by simpa [Instr.wellFormed] using hwf
    have h := decodeFrame_frameLongBytes hp hlen hmax c stop []
    rw [List.append_nil] at h
    rw [encode, decode, h]
  all_goals exact decode_encode_of_isCommand p rfl

/-- Settles O2: the word is its operation code and its operand, and masking it masks the operand alone. -/
theorem commandWordIsItsUsedBits : Obligations.CommandWordIsItsUsedBits := by
  intro p w i h
  calc encode p i
      = .command (commandWord (opOf w) (argOf w &&& argOf (usedMask i))) := encode_of_decodeOp p h
    _ = .command (commandWord (opOf w) (argOf w) &&& commandWord 0xFF#8 (argOf (usedMask i))) := by rw [commandWord_and]
    _ = .command (w &&& usedMask i) := by rw [commandWord_opOf_argOf, ← usedMask_eq (isCommand_of_decodeOp h)]

/-- Settles O4: the arms of the opcode map are the 17 codes, and its last arm takes every other one. -/
theorem reservedOpsAreExactlyTheRejectedOnes : Obligations.ReservedOpsAreExactlyTheRejectedOnes := by
  refine ⟨fun w h => ?_, fun w h => decodeOp_of_notMem_definedOps h _, by decide +kernel⟩
  obtain ⟨i, hi⟩ := decodeOp_of_mem_definedOps h (argOf w)
  exact ⟨i, hi, isCommand_of_decodeOp hi⟩

/-- Settles O5. -/
theorem decodedFrameStandsAtTheBeginning : Obligations.DecodedFrameStandsAtTheBeginning := by
  intro p bs rest i h
  obtain ⟨len, P, c, stop, hlen, rfl, rfl⟩ | ⟨len, P, c, stop, hlen, hmax, rfl, rfl⟩ := decodeFrame_eq_ok h
  · exact ⟨by simpa [Instr.wellFormed] using hlen, rfl, _, rfl, rfl⟩
  · exact ⟨by simpa [Instr.wellFormed] using ⟨hlen, hmax⟩, rfl, _, rfl, rfl⟩

/-- Settles O6: sample words, each decoded by evaluation. -/
theorem sampleWordsDecode : Obligations.SampleWordsDecode := by
  unfold Obligations.SampleWordsDecode
  decide

end Sys2Proof
end

section
/-! Integrity Codec: the function `crc16` (40_crc.md R100 to R103). A shift of the register is linear over GF(2), so what a
changed byte does to the register is a difference that runs on by itself; and a register whose high bits are zero is only
shifted. -/

namespace Sys2Proof
namespace Machine

section
variable (poly : Half)

/-! ## Shifts of the register -/

theorem crcShift_of_msb_eq_false {c : Half} (h : c.msb = false) : crcShift poly c = c <<< 1 := by simp [crcShift, h]

theorem crcShift_of_msb_eq_true {c : Half} (h : c.msb = true) : crcShift poly c = (c <<< 1) ^^^ poly := by
  simp [crcShift, h]

theorem crcShift_xor (c d : Half) : crcShift poly (c ^^^ d) = crcShift poly c ^^^ crcShift poly d := by
  unfold crcShift
  rw [BitVec.msb_xor, BitVec.shiftLeft_xor_distrib]
  cases c.msb <;> cases d.msb
  · simp
  · simp [BitVec.xor_assoc]
  · simp [BitVec.xor_assoc, BitVec.xor_comm poly]
  · have hpoly : c <<< 1 ^^^ poly ^^^ (d <<< 1 ^^^ poly) = c <<< 1 ^^^ d <<< 1 ^^^ (poly ^^^ poly) := by ac_rfl
    simp [hpoly]

theorem crcShifts_xor (k : Nat) (c d : Half) :
    crcShifts poly k (c ^^^ d) = crcShifts poly k c ^^^ crcShifts poly k d := by
  induction k generalizing c d with
  | zero => rfl
  | succ k ih => rw [crcShifts, crcShift_xor, ih]; rfl

@[simp] theorem crcShifts_zero (k : Nat) : crcShifts poly k 0 = 0 := by
  simpa using crcShifts_xor poly k 0 0

/-- No one falls out of a register below `2 ^ (16 - k)` in `k` shifts. -/
theorem crcShifts_of_lt {k : Nat} {c : Half} (hk : k ≤ 16) (h : c.toNat < 2 ^ (16 - k)) :
    crcShifts poly k c = c <<< k := by
  induction k generalizing c with
  | zero => simp [crcShifts]
  | succ k ih =>
    have hhalf : c.toNat * 2 < 2 ^ (16 - k) := by
      rw [show 16 - k = 16 - (k + 1) + 1 by omega, Nat.pow_succ]
      omega
    have hle : 2 ^ (16 - k) ≤ 2 ^ 16 := Nat.pow_le_pow_right (by decide) (by omega)
    have hmsb : c.msb = false := by
      rw [BitVec.msb_eq_decide, decide_eq_false]
      omega
    have hshift : (c <<< 1).toNat = c.toNat * 2 := by
      rw [BitVec.toNat_shiftLeft, Nat.shiftLeft_eq]
      omega
    rw [crcShifts, crcShift_of_msb_eq_false poly hmsb, ih (by omega) (by omega), ← BitVec.shiftLeft_add, Nat.add_comm]

/-- The register is its high byte, shifted up, and its low byte. -/
theorem eq_hiByte_xor_loByte (c : Half) : c = ((hiByte c).setWidth 16 <<< 8) ^^^ (loByte c).setWidth 16 := by
  apply BitVec.eq_of_getLsbD_eq
  intro i hi
  by_cases h8 : i < 8
  · simp [hiByte, loByte, h8, hi]
  · simp [hiByte, loByte, h8, hi, show i - 8 < 8 by omega, show 8 + (i - 8) = i by omega]

/-- Eight shifts move a low byte into the high one. -/
theorem crcShifts_eight_loByte (b : Byte) : crcShifts poly 8 (b.setWidth 16) = b.setWidth 16 <<< 8 :=
  crcShifts_of_lt poly (by decide) (by rw [BitVec.toNat_setWidth]; omega)

/-! ## Bytes -/

theorem crcStep_xor (c d : Half) (b e : Byte) : crcStep poly (c ^^^ d) (b ^^^ e) = crcStep poly c b ^^^ crcStep poly d e := by
  have h : c ^^^ d ^^^ ((b ^^^ e).setWidth 16 <<< 8) = (c ^^^ (b.setWidth 16 <<< 8)) ^^^ (d ^^^ (e.setWidth 16 <<< 8)) := by
    rw [BitVec.setWidth_xor, BitVec.shiftLeft_xor_distrib]
    ac_rfl
  rw [crcStep, h, crcShifts_xor]
  rfl

@[simp] theorem crcStep_zero_zero : crcStep poly 0 0 = 0 := crcShifts_zero poly 8

/-- The high byte of the register meets the byte; the low byte is only shifted up. -/
theorem crcStep_eq_table (c : Half) (b : Byte) :
    crcStep poly c b = crcTable poly (hiByte c ^^^ b) ^^^ ((loByte c).setWidth 16 <<< 8) :=
  calc crcStep poly c b
      = crcShifts poly 8 (0#16 ^^^ ((hiByte c ^^^ b).setWidth 16 <<< 8) ^^^ (loByte c).setWidth 16) := by
        conv_lhs => rw [crcStep, eq_hiByte_xor_loByte c]
        rw [BitVec.setWidth_xor, BitVec.shiftLeft_xor_distrib, BitVec.zero_xor]
        congr 1
        ac_rfl
    _ = _ := by rw [crcShifts_xor, crcShifts_eight_loByte]; rfl

theorem crc16From_append (c : Half) (a b : List Byte) :
    crc16From poly c (a ++ b) = crc16From poly (crc16From poly c a) b := List.foldl_append

@[simp] theorem crc16From_cons (c : Half) (b : Byte) (bs : List Byte) :
    crc16From poly c (b :: bs) = crc16From poly (crcStep poly c b) bs := rfl

/-- Its own two bytes take the register to zero: each meets the byte of the register that is equal to it. -/
theorem crc16From_own_bytes (c : Half) : crc16From poly c [hiByte c, loByte c] = 0 := by
  have htable : crcTable poly 0 = 0 := crcStep_zero_zero poly
  have hhi : crcStep poly c (hiByte c) = (loByte c).setWidth 16 <<< 8 := by
    rw [crcStep_eq_table, BitVec.xor_self]
    exact (congrArg (· ^^^ _) htable).trans BitVec.zero_xor
  rw [crc16From_cons, hhi, crc16From_cons, crcStep, BitVec.xor_self]
  exact crcShifts_zero poly 8

/-! ## A single flipped bit (R103 (c)) -/

/-- What a single flipped bit can leave in the register: one bit, as long as it has not met the polynomial; after that a
value that is not zero and that, as the polynomial, has no bit below the lowest bit of the polynomial. -/
def ErrorResidue (d : Half) : Prop :=
  (∃ m, m < 16 ∧ d = BitVec.twoPow 16 m) ∨ (d ≠ 0 ∧ ∀ i, i < poly.ctz.toNat → d.getLsbD i = false)

variable {poly}

theorem ErrorResidue.ne_zero {d : Half} (h : ErrorResidue poly d) : d ≠ 0 := by
  obtain ⟨m, hm, rfl⟩ | ⟨h, -⟩ := h
  · exact fun h0 => by simpa [BitVec.getLsbD_twoPow, hm] using congrArg (·.getLsbD m) h0
  · exact h

theorem ErrorResidue.crcShift (hp : poly ≠ 0) {d : Half} (h : ErrorResidue poly d) : ErrorResidue poly (crcShift poly d) := by
  have hlow : ∀ i, i < poly.ctz.toNat → poly.getLsbD i = false := fun i hi => BitVec.getLsbD_false_of_lt_ctz hi
  have hbit : poly.getLsbD poly.ctz.toNat = true := BitVec.getLsbD_true_ctz_of_ne_zero hp
  obtain ⟨m, hm, rfl⟩ | ⟨hne, hd⟩ := h
  · by_cases h15 : m = 15
    · -- the bit falls out: what is left is the polynomial
      subst h15
      have hpoly : Machine.crcShift poly (BitVec.twoPow 16 15) = poly := by
        rw [crcShift_of_msb_eq_true poly (by decide)]
        exact BitVec.zero_xor
      rw [hpoly]
      exact .inr ⟨hp, hlow⟩
    · refine .inl ⟨m + 1, by omega, ?_⟩
      have hmsb : (BitVec.twoPow 16 m).msb = false := by
        rw [BitVec.msb_eq_getLsbD_last, BitVec.getLsbD_twoPow, decide_eq_false h15, Bool.and_false]
      rw [crcShift_of_msb_eq_false poly hmsb, BitVec.twoPow_eq, BitVec.twoPow_eq, BitVec.shiftLeft_add]
  · have hshift : ∀ i, i ≤ poly.ctz.toNat → (d <<< 1).getLsbD i = false := fun i hi => by
      rw [BitVec.getLsbD_shiftLeft]
      by_cases h0 : i = 0
      · simp [h0]
      · simp [hd (i - 1) (by omega)]
    cases hmsb : d.msb with
    | false =>
      rw [crcShift_of_msb_eq_false poly hmsb]
      refine .inr ⟨fun h0 => hne ?_, fun i hi => hshift i hi.le⟩
      rw [BitVec.msb_eq_decide, decide_eq_false_iff_not] at hmsb
      have h0 := congrArg BitVec.toNat h0
      apply BitVec.eq_of_toNat_eq
      rw [BitVec.toNat_shiftLeft, Nat.shiftLeft_eq] at h0
      simp at h0 ⊢
      omega
    | true =>
      rw [crcShift_of_msb_eq_true poly hmsb]
      refine .inr ⟨fun h0 => ?_, fun i hi => ?_⟩
      · -- the lowest bit of the polynomial is set
        simpa [hshift _ le_rfl, hbit] using congrArg (·.getLsbD poly.ctz.toNat) h0
      · simp [hshift i hi.le, hlow i hi]

theorem ErrorResidue.crcShifts (hp : poly ≠ 0) {d : Half} (h : ErrorResidue poly d) (k : Nat) :
    ErrorResidue poly (crcShifts poly k d) := by
  induction k generalizing d with
  | zero => exact h
  | succ k ih => exact ih (h.crcShift hp)

/-- A difference in the register stays a difference to the end. -/
theorem crc16From_xor_ne (hp : poly ≠ 0) {d : Half} (h : ErrorResidue poly d) (c : Half) (bs : List Byte) :
    crc16From poly (c ^^^ d) bs ≠ crc16From poly c bs := by
  induction bs generalizing c d with
  | nil => exact fun heq => h.ne_zero (by simpa [BitVec.xor_assoc] using congrArg (c ^^^ ·) (show c ^^^ d = c from heq))
  | cons b bs ih =>
    have hstep : crcStep poly (c ^^^ d) b = crcStep poly c b ^^^ Machine.crcShifts poly 8 d := by
      rw [crcStep, crcStep, ← crcShifts_xor]
      congr 1
      ac_rfl
    rw [crc16From_cons, hstep]
    exact ih (h.crcShifts hp 8) _

theorem crc16From_flipBit_ne (hp : poly ≠ 0) {bs : List Byte} {i k : Nat} (hi : i < bs.length) (hk : k < 8) (c : Half) :
    crc16From poly c (flipBit bs i k) ≠ crc16From poly c bs := by
  induction bs generalizing c i with
  | nil => simp at hi
  | cons b bs ih =>
    cases i with
    | zero =>
      have hbit : ∀ k : Nat, k < 8 → (1#8 <<< k).setWidth 16 <<< 8 = BitVec.twoPow 16 (k + 8) := by decide
      have hstep : crcStep poly c (b ^^^ 1#8 <<< k) = crcStep poly c b ^^^ Machine.crcShifts poly 8 (BitVec.twoPow 16 (k + 8)) := by
        rw [crcStep, crcStep, ← crcShifts_xor, BitVec.setWidth_xor, BitVec.shiftLeft_xor_distrib, hbit k hk, BitVec.xor_assoc]
      show crc16From poly (crcStep poly c (b ^^^ 1#8 <<< k)) bs ≠ _
      rw [hstep]
      exact crc16From_xor_ne hp (ErrorResidue.crcShifts hp (.inl ⟨k + 8, by omega, rfl⟩) 8) _ bs
    | succ i => exact ih (by simpa using hi) (crcStep poly c b)

end

/-- Settles O12: the step by its table, the low byte of `c` being what `c << 8` keeps. -/
theorem crcStepHasTheTableForm : Obligations.CrcStepHasTheTableForm := by
  intro poly c b
  have hhi : (c >>> 8).setWidth 8 = hiByte c := by
    apply BitVec.eq_of_toNat_eq
    rw [toNat_hiByte, BitVec.toNat_setWidth, BitVec.toNat_ushiftRight, Nat.shiftRight_eq_div_pow]
    omega
  have hlo : (loByte c).setWidth 16 <<< 8 = c <<< 8 := by
    apply BitVec.eq_of_toNat_eq
    simp only [BitVec.toNat_shiftLeft, BitVec.toNat_setWidth, toNat_loByte, Nat.shiftLeft_eq]
    omega
  rw [crcStep_eq_table, hhi, hlo]

/-- Settles O13: the CRC is a fold; a zero byte leaves a zero register; the check value is computed. -/
theorem crcIncrementalLeadingZeroCheckValue : Obligations.CrcIncrementalLeadingZeroCheckValue := by
  refine ⟨crc16From_append, fun p bs h => ?_, by decide +kernel⟩
  rw [crc16, crc16, h, crc16From_cons, crcStep_zero_zero]

/-- Settles O14, by induction on the sequences. -/
theorem crcIsLinear : Obligations.CrcIsLinear := by
  intro poly c d s e hlen
  induction s generalizing c d e with
  | nil =>
    obtain rfl := List.length_eq_zero_iff.1 hlen.symm
    rfl
  | cons b s ih =>
    cases e with
    | nil => simp at hlen
    | cons b' e =>
      rw [List.zipWith_cons_cons, crc16From_cons, crcStep_xor]
      exact ih _ _ _ (by simpa using hlen)

/-- Settles O15. -/
theorem crcDetectsEverySingleBitError : Obligations.CrcDetectsEverySingleBitError :=
  fun p _ _ _ hp hi hk => crc16From_flipBit_ne hp hi hk p.crcInit

/-- Settles O16. -/
theorem crcResidueIsZero : Obligations.CrcResidueIsZero := by
  refine ⟨crc16From_own_bytes, fun p bs => ?_⟩
  rw [crc16, crc16From_append]
  exact crc16From_own_bytes _ _

end Machine
end Sys2Proof
end

section
/-! Deframer: the function `deframe` (44_deframer.md R150, R151, R161, R163). What it can answer is said once, and two facts
follow that the rest needs: a verdict is the same whatever follows the bytes it takes, and a header followed by a body is
judged by its stop byte and its CRC field. -/

namespace Sys2Proof
namespace Machine

/-! ## What `deframe` can answer -/

/-- The verdict on a whole frame with `h` header bytes and `ld` payload bytes: the stop marker first, then the CRC (R150). -/
def wholeVerdict (p : Params) (s : List Byte) (h ld : Nat) : Verdict :=
  if byteAt s (h + ld + 2) ≠ p.stop then .fail .frameIntegrityStop (h + ld + 3)
  else if half (byteAt s (h + ld)) (byteAt s (h + ld + 1)) ≠ crc16 p ((s.drop h).take ld) then
    .fail .frameIntegrityCrc (h + ld + 3)
  else .ok ((s.drop h).take ld) (h + ld + 3)

theorem wholeVerdict_eq_ok {p : Params} {s P : List Byte} {h ld n : Nat} (hv : wholeVerdict p s h ld = .ok P n) :
    P = (s.drop h).take ld := by
  unfold wholeVerdict at hv
  split at hv
  · cases hv
  · split at hv
    · cases hv
    · cases hv
      rfl

/-- How many bytes a verdict takes. -/
def Verdict.taken : Verdict → Option Nat
  | .incomplete => none
  | .fail _ n => some n
  | .ok _ n => some n

theorem Verdict.taken_eq_none {v : Verdict} : v.taken = none ↔ v = .incomplete := by cases v <;> simp [Verdict.taken]

theorem wholeVerdict_taken (p : Params) (s : List Byte) (h ld : Nat) : (wholeVerdict p s h ld).taken = some (h + ld + 3) := by
  unfold wholeVerdict
  split
  · rfl
  · split <;> rfl

section
variable {p : Params} {s : List Byte} {h : Nat}

theorem deframe_of_badStart (hs : 1 ≤ s.length) (hh : headerLen p (byteAt s 0) = none) :
    deframe p s = .fail .frameBadStart 1 := by
  simp only [deframe, if_neg (Nat.not_lt.2 hs), hh]

theorem deframe_of_short_header (hh : headerLen p (byteAt s 0) = some h) (hs : s.length < h) : deframe p s = .incomplete := by
  simp only [deframe, hh, if_pos hs]
  exact ite_self _

theorem deframe_of_header (hh : headerLen p (byteAt s 0) = some h) (hs : h ≤ s.length) :
    deframe p s =
      if declaredLen h (byteAt s 1) (byteAt s 2) > Config.maxPayload then .fail .frameBadLength 3
      else if s.length < h + declaredLen h (byteAt s 1) (byteAt s 2) + 3 then .incomplete
      else wholeVerdict p s h (declaredLen h (byteAt s 1) (byteAt s 2)) := by
  have h1 : 1 ≤ h := by rcases headerLen_cases hh with rfl | rfl <;> decide
  simp only [deframe, if_neg (Nat.not_lt.2 (h1.trans hs)), hh, if_neg (Nat.not_lt.2 hs)]
  rfl

/-- A sequence is incomplete, begins with no start marker, declares too much, or holds a whole frame (R150). -/
theorem deframe_cases (p : Params) (s : List Byte) :
    (deframe p s = .incomplete ∧ (s = [] ∨ ∃ h, headerLen p (byteAt s 0) = some h ∧
      (h ≤ s.length → declaredLen h (byteAt s 1) (byteAt s 2) ≤ Config.maxPayload ∧
        s.length < h + declaredLen h (byteAt s 1) (byteAt s 2) + 3))) ∨
    (1 ≤ s.length ∧ headerLen p (byteAt s 0) = none ∧ deframe p s = .fail .frameBadStart 1) ∨
    (∃ h, headerLen p (byteAt s 0) = some h ∧ h ≤ s.length ∧ Config.maxPayload < declaredLen h (byteAt s 1) (byteAt s 2) ∧
      deframe p s = .fail .frameBadLength 3) ∨
    (∃ h, headerLen p (byteAt s 0) = some h ∧ declaredLen h (byteAt s 1) (byteAt s 2) ≤ Config.maxPayload ∧
      h + declaredLen h (byteAt s 1) (byteAt s 2) + 3 ≤ s.length ∧
      deframe p s = wholeVerdict p s h (declaredLen h (byteAt s 1) (byteAt s 2))) := by
  rcases Nat.eq_zero_or_pos s.length with h0 | h1
  · obtain rfl := List.length_eq_zero_iff.1 h0
    exact .inl ⟨rfl, .inl rfl⟩
  cases hh : headerLen p (byteAt s 0) with
  | none => exact .inr (.inl ⟨h1, rfl, deframe_of_badStart h1 hh⟩)
  | some h =>
    rcases Nat.lt_or_ge s.length h with hs | hs
    · exact .inl ⟨deframe_of_short_header hh hs, .inr ⟨h, rfl, fun hle => absurd hs (Nat.not_lt.2 hle)⟩⟩
    have hd := deframe_of_header hh hs
    split at hd
    · exact .inr (.inr (.inl ⟨h, rfl, hs, ‹_›, hd⟩))
    · have hmax := Nat.not_lt.1 ‹_›
      split at hd
      · exact .inl ⟨hd, .inr ⟨h, rfl, fun _ => ⟨hmax, ‹_›⟩⟩⟩
      · exact .inr (.inr (.inr ⟨h, rfl, hmax, Nat.not_lt.1 ‹_›, hd⟩))

/-- Where a receive stands that is not over (R38 (h)), in terms of the bytes taken. -/
theorem deframe_eq_incomplete_iff :
    deframe p s = .incomplete ↔ s = [] ∨ ∃ h, headerLen p (byteAt s 0) = some h ∧
      (h ≤ s.length → declaredLen h (byteAt s 1) (byteAt s 2) ≤ Config.maxPayload ∧
        s.length < h + declaredLen h (byteAt s 1) (byteAt s 2) + 3) := by
  constructor
  · intro hi
    obtain ⟨-, hcase⟩ | ⟨-, -, hd⟩ | ⟨h, -, -, -, hd⟩ | ⟨h, -, -, -, hd⟩ := deframe_cases p s
    · exact hcase
    · rw [hd] at hi; cases hi
    · rw [hd] at hi; cases hi
    · have ht := wholeVerdict_taken p s h (declaredLen h (byteAt s 1) (byteAt s 2))
      rw [← hd, hi] at ht
      cases ht
  · rintro (rfl | ⟨h, hh, hpos⟩)
    · rfl
    · rcases Nat.lt_or_ge s.length h with hs | hs
      · exact deframe_of_short_header hh hs
      · rw [deframe_of_header hh hs, if_neg (Nat.not_lt.2 (hpos hs).1), if_pos (hpos hs).2]

/-- Only a long form can declare too much, at its third byte. -/
theorem headerLen_eq_three_of_maxPayload_lt {b b1 b2 : Byte} (hh : headerLen p b = some h)
    (hmax : Config.maxPayload < declaredLen h b1 b2) : h = 3 := by
  rcases headerLen_cases hh with rfl | rfl
  · exact absurd (declaredLen_two_le b1 b2) (by unfold Config.maxPayload at hmax; omega)
  · rfl

/-- 518 bytes are never incomplete: no frame is longer (R52). -/
theorem length_lt_of_deframe_incomplete (hi : deframe p s = .incomplete) : s.length < Config.frameMax := by
  unfold Config.frameMax
  rcases deframe_eq_incomplete_iff.1 hi with rfl | ⟨h, hh, hpos⟩
  · decide
  · unfold Config.maxPayload at hpos
    rcases headerLen_cases hh with rfl | rfl
    · by_cases hle : 2 ≤ s.length
      · have := hpos hle; omega
      · omega
    · by_cases hle : 3 ≤ s.length
      · have := hpos hle; omega
      · omega

theorem length_payload_le {P : List Byte} {n : Nat} (hok : deframe p s = .ok P n) : P.length ≤ Config.maxPayload := by
  obtain ⟨hd, -⟩ | ⟨-, -, hd⟩ | ⟨h, -, -, -, hd⟩ | ⟨h, -, hmax, -, hd⟩ := deframe_cases p s
  · rw [hd] at hok; cases hok
  · rw [hd] at hok; cases hok
  · rw [hd] at hok; cases hok
  · rw [hd] at hok
    rw [wholeVerdict_eq_ok hok]
    exact (List.length_take_le _ _).trans hmax

/-! ## A verdict does not depend on what follows (R150) -/

theorem byteAt_take_append {r : List Byte} {i n : Nat} (hi : i < n) (hn : n ≤ s.length) : byteAt (s.take n ++ r) i = byteAt s i := by
  rw [byteAt_append_left (by rw [List.length_take]; omega), byteAt_take hi]

theorem wholeVerdict_take_append (p : Params) {r : List Byte} {ld : Nat} (hn : h + ld + 3 ≤ s.length) :
    wholeVerdict p (s.take (h + ld + 3) ++ r) h ld = wholeVerdict p s h ld := by
  have hpay : ((s.take (h + ld + 3) ++ r).drop h).take ld = (s.drop h).take ld := by
    rw [List.drop_append_of_le_length (by rw [List.length_take]; omega),
      List.take_append_of_le_length (by simp; omega), List.drop_take, List.take_take]
    congr 1
    omega
  unfold wholeVerdict
  rw [hpay, byteAt_take_append (by omega) hn, byteAt_take_append (by omega) hn, byteAt_take_append (by omega) hn]

/-- A verdict takes bytes that are there, and the bytes it takes have that verdict whatever follows them. -/
theorem deframe_take_append {n : Nat} (ht : (deframe p s).taken = some n) (r : List Byte) :
    n ≤ s.length ∧ deframe p (s.take n ++ r) = deframe p s := by
  obtain ⟨hd, -⟩ | ⟨h1, hh, hd⟩ | ⟨h, hh, hs, hmax, hd⟩ | ⟨h, hh, hmax, hs, hd⟩ := deframe_cases p s
  · rw [hd] at ht; cases ht
  · rw [hd] at ht ⊢
    cases ht
    exact ⟨h1, deframe_of_badStart (by rw [List.length_append, List.length_take]; omega) (by rw [byteAt_take_append (by omega) h1, hh])⟩
  · obtain rfl := headerLen_eq_three_of_maxPayload_lt hh hmax
    rw [hd] at ht ⊢
    cases ht
    have same {i : Nat} (hi : i < 3) : byteAt (s.take 3 ++ r) i = byteAt s i := byteAt_take_append hi hs
    refine ⟨hs, ?_⟩
    rw [deframe_of_header (h := 3) (by rw [same (by omega), hh]) (by simp; omega), same (by omega), same (by omega),
      if_pos hmax]
  · rw [hd, wholeVerdict_taken] at ht
    cases ht
    have hge : 2 ≤ h := by rcases headerLen_cases hh with rfl | rfl <;> omega
    generalize hld : declaredLen h (byteAt s 1) (byteAt s 2) = ld at *
    have hlen : (s.take (h + ld + 3)).length = h + ld + 3 := List.length_take_of_le hs
    have same {i : Nat} (hi : i < h + ld + 3) : byteAt (s.take (h + ld + 3) ++ r) i = byteAt s i := byteAt_take_append hi hs
    refine ⟨hs, ?_⟩
    rw [deframe_of_header (h := h) (by rw [same (by omega), hh]) (by rw [List.length_append]; omega),
      same (by omega), same (by omega), hld, if_neg (Nat.not_lt.2 hmax), if_neg (by rw [List.length_append, hlen]; omega), hd]
    exact wholeVerdict_take_append p hs

theorem deframe_append {n : Nat} (ht : (deframe p s).taken = some n) (r : List Byte) : deframe p (s ++ r) = deframe p s := by
  have h := (deframe_take_append ht (s.drop n ++ r)).2
  rwa [← List.append_assoc, List.take_append_drop] at h

/-- What is incomplete is so at every earlier point. -/
theorem deframe_incomplete_of_append {r : List Byte} (hi : deframe p (s ++ r) = .incomplete) : deframe p s = .incomplete := by
  cases ht : (deframe p s).taken with
  | none => exact Verdict.taken_eq_none.1 ht
  | some n => rw [← deframe_append ht r, hi]

/-- A verdict on more bytes than were incomplete takes more than those. -/
theorem lt_taken_of_incomplete {r : List Byte} {n : Nat} (hi : deframe p s = .incomplete)
    (ht : (deframe p (s ++ r)).taken = some n) : s.length < n := by
  by_contra hn
  obtain ⟨-, h⟩ := deframe_take_append ht (s.drop n)
  rw [List.take_append_of_le_length (Nat.not_lt.1 hn), List.take_append_drop, hi] at h
  rw [← h] at ht
  cases ht

end

/-! ## A header followed by a body -/

/-- The header bytes of a frame with `n` payload bytes, in either form (R71, R72). -/
structure IsHeader (p : Params) (hd : List Byte) (n : Nat) : Prop where
  headerLen_eq : headerLen p (byteAt hd 0) = some hd.length
  declaredLen_eq : declaredLen hd.length (byteAt hd 1) (byteAt hd 2) = n

theorem isHeader_short (p : Params) (len : Byte) : IsHeader p [p.startShort, len] len.toNat :=
  ⟨headerLen_startShort p, rfl⟩

theorem isHeader_long {p : Params} (hp : p.wf) (len : Half) : IsHeader p [p.startLong, hiByte len, loByte len] len.toNat :=
  ⟨headerLen_startLong hp, by rw [← half_hiByte_loByte len, toNat_half, half_hiByte_loByte]; rfl⟩

theorem isHeader_frameHeader {p : Params} (hp : p.wf) {n : Nat} (hn : n ≤ Config.maxPayload) :
    IsHeader p (frameHeader p n) n := by
  unfold Config.maxPayload at hn
  unfold frameHeader
  split
  · next hshort =>
    have hlen : (BitVec.ofNat 8 n).toNat = n := by
      rw [BitVec.toNat_ofNat]
      exact Nat.mod_eq_of_lt (Nat.lt_succ_of_le hshort)
    have h := isHeader_short p (BitVec.ofNat 8 n)
    rwa [hlen] at h
  · refine ⟨headerLen_startLong hp, ?_⟩
    show (BitVec.ofNat 8 (n / 256)).toNat * 256 + (BitVec.ofNat 8 (n % 256)).toNat = n
    rw [BitVec.toNat_ofNat, BitVec.toNat_ofNat]
    omega

section
variable {p : Params} {hd P : List Byte}

/-- The length byte of a short form is its second; the third byte plays no part in it. -/
theorem IsHeader.declaredLen_append {n : Nat} (h : IsHeader p hd n) (r : List Byte) :
    declaredLen hd.length (byteAt (hd ++ r) 1) (byteAt (hd ++ r) 2) = n := by
  rw [← h.declaredLen_eq]
  rcases headerLen_cases h.headerLen_eq with h2 | h3
  · rw [byteAt_append_left (by omega), h2]
    rfl
  · rw [byteAt_append_left (by omega), byteAt_append_left (by omega)]

theorem byteAt_append_length_add (a b : List Byte) (i : Nat) : byteAt (a ++ b) (a.length + i) = byteAt b i := by
  simp [byteAt, List.getElem?_append_right]

/-- A header, a body of the declared length, and whatever follows: the stop byte and the CRC field decide (R150). -/
theorem deframe_header_frameBody (h : IsHeader p hd P.length) (hmax : P.length ≤ Config.maxPayload) (c : Half) (stop : Byte)
    (r : List Byte) :
    deframe p (hd ++ frameBody P c stop ++ r) =
      if stop ≠ p.stop then .fail .frameIntegrityStop (hd ++ frameBody P c stop).length
      else if c ≠ crc16 p P then .fail .frameIntegrityCrc (hd ++ frameBody P c stop).length
      else .ok P (hd ++ frameBody P c stop).length := by
  have hlen : (hd ++ frameBody P c stop).length = hd.length + P.length + 3 := by
    rw [List.length_append, length_frameBody, Nat.add_assoc]
  have hge : 1 ≤ hd.length := by rcases headerLen_cases h.headerLen_eq with h' | h' <;> omega
  have hbytes : hd ++ frameBody P c stop ++ r = hd ++ (P ++ (hiByte c :: loByte c :: stop :: r)) := by simp [frameBody]
  have trailer (i : Nat) : byteAt (hd ++ (P ++ (hiByte c :: loByte c :: stop :: r))) (hd.length + P.length + i) =
      byteAt (hiByte c :: loByte c :: stop :: r) i := by
    rw [Nat.add_assoc, byteAt_append_length_add, byteAt_append_length_add]
  have hpay : ((hd ++ (P ++ (hiByte c :: loByte c :: stop :: r))).drop hd.length).take P.length = P := by simp
  rw [hlen, hbytes, deframe_of_header (h := hd.length) (by rw [byteAt_append_left (by omega), h.headerLen_eq]) (by simp),
    h.declaredLen_append, if_neg (Nat.not_lt.2 hmax), if_neg (by simp; omega), wholeVerdict, hpay, trailer 2, trailer 1,
    show hd.length + P.length = hd.length + P.length + 0 from rfl, trailer 0]
  show (if stop ≠ p.stop then _ else if half (hiByte c) (loByte c) ≠ crc16 p P then _ else _) = _
  rw [half_hiByte_loByte]

/-- The packet of a payload, and whatever follows, gives the payload back (R161). -/
theorem deframe_frame {f : List Byte} (hp : p.wf) (hf : frame p P = some f) (r : List Byte) :
    deframe p (f ++ r) = .ok P f.length := by
  have hmax : P.length ≤ Config.maxPayload := (length_of_frame hf).1
  rw [frame_isSome hmax] at hf
  cases hf
  rw [deframe_header_frameBody (isHeader_frameHeader hp hmax) hmax, if_neg (by simp), if_neg (by simp)]

end

/-- Settles O29: a packet is a header and a body whose stop byte and CRC field are right; so is the long form. -/
theorem deframeRecoversTheFramedPayload : Obligations.DeframeRecoversTheFramedPayload := by
  intro p P r hp hmax
  refine ⟨fun f hf => deframe_frame hp hf r, ?_⟩
  have hlen : (BitVec.ofNat 16 P.length).toNat = P.length := by
    rw [BitVec.toNat_ofNat]
    exact Nat.mod_eq_of_lt (by omega)
  have hlong := isHeader_long hp (BitVec.ofNat 16 P.length)
  rw [hlen] at hlong
  have h := deframe_header_frameBody hlong hmax (crc16 p P) p.stop r
  rw [if_neg (by simp), if_neg (by simp)] at h
  have hbytes : (frameLongBytes p (BitVec.ofNat 16 P.length) P (crc16 p P) p.stop).length = P.length + 6 := by
    simp [frameLongBytes]
  exact h.trans (congrArg (Verdict.ok P) hbytes)

/-- Settles O25: deframing the packet gives one payload, so two payloads of one packet are equal. -/
theorem frameIsInjective : Obligations.FrameIsInjective := by
  intro p P Q f hp hP hQ
  have h := (deframe_frame hp hP []).symm.trans (deframe_frame hp hQ [])
  cases h
  rfl

/-- Settles O30: a verdict on the first bytes would be the verdict on the packet, which takes all of it. -/
theorem properPrefixOfAPacketIsIncomplete : Obligations.ProperPrefixOfAPacketIsIncomplete := by
  intro p P f n hp hf hn
  cases ht : (deframe p (f.take n)).taken with
  | none => exact Verdict.taken_eq_none.1 ht
  | some m =>
    have hle := (deframe_take_append ht []).1
    have hwhole := deframe_frame hp hf []
    rw [List.append_nil, ← List.take_append_drop n f, deframe_append ht, List.take_append_drop] at hwhole
    rw [hwhole] at ht
    cases ht
    rw [List.length_take] at hle
    omega

/-- Settles O31. -/
theorem verdictDependsOnlyOnTheTakenBytes : Obligations.VerdictDependsOnlyOnTheTakenBytes := by
  intro p bs r
  refine ⟨fun st n hd => ?_, fun P n hd => ?_⟩
  · obtain ⟨hn, h⟩ := deframe_take_append (p := p) (s := bs) (by rw [hd]; rfl) r
    exact ⟨hn, h.trans hd⟩
  · obtain ⟨hn, h⟩ := deframe_take_append (p := p) (s := bs) (by rw [hd]; rfl) r
    refine ⟨hn, length_payload_le hd, h.trans hd⟩

end Machine
end Sys2Proof
end

section
/-! Deframer: a flipped bit (44_deframer.md R163). In a body it leaves a body of the same length, in which exactly one of
payload, CRC field and stop byte has changed. -/

namespace Sys2Proof
namespace Machine

section
variable {i k : Nat}

@[simp] theorem length_flipBit (bs : List Byte) (i k : Nat) : (flipBit bs i k).length = bs.length := by simp [flipBit]

theorem flipBit_append_of_lt {a : List Byte} (hi : i < a.length) (b : List Byte) (k : Nat) :
    flipBit (a ++ b) i k = flipBit a i k ++ b := by
  induction a generalizing i with
  | nil => simp at hi
  | cons x a ih =>
    cases i with
    | zero => rfl
    | succ i => exact congrArg (x :: ·) (ih (by simpa using hi))

theorem flipBit_append_length_add (a b : List Byte) (i k : Nat) : flipBit (a ++ b) (a.length + i) k = a ++ flipBit b i k := by
  induction a with
  | nil => simp
  | cons x a ih =>
    rw [List.length_cons, Nat.add_right_comm]
    exact congrArg (x :: ·) ih

theorem xor_bit_ne (hk : k < 8) (b : Byte) : b ^^^ 1#8 <<< k ≠ b := by
  have hbit : ∀ k : Nat, k < 8 → 1#8 <<< k ≠ 0#8 := by decide
  intro h
  exact hbit k hk (by simpa [← BitVec.xor_assoc] using congrArg (b ^^^ ·) h)

variable (P : List Byte) (c : Half) (stop : Byte)

theorem flipBit_frameBody_payload (hi : i < P.length) (k : Nat) :
    flipBit (frameBody P c stop) i k = frameBody (flipBit P i k) c stop :=
  flipBit_append_of_lt hi _ k

theorem flipBit_frameBody_crc (hi : i < 2) (hk : k < 8) :
    ∃ c', c' ≠ c ∧ flipBit (frameBody P c stop) (P.length + i) k = frameBody P c' stop := by
  rw [frameBody, flipBit_append_length_add]
  match i, hi with
  | 0, _ =>
    refine ⟨half (hiByte c ^^^ 1#8 <<< k) (loByte c), fun h => ?_, by simp [frameBody, flipBit]⟩
    exact xor_bit_ne hk (hiByte c) (by simpa using congrArg hiByte h)
  | 1, _ =>
    refine ⟨half (hiByte c) (loByte c ^^^ 1#8 <<< k), fun h => ?_, by simp [frameBody, flipBit]⟩
    exact xor_bit_ne hk (loByte c) (by simpa using congrArg loByte h)

theorem flipBit_frameBody_stop (k : Nat) :
    flipBit (frameBody P c stop) (P.length + 2) k = frameBody P c (stop ^^^ 1#8 <<< k) := by
  rw [frameBody, flipBit_append_length_add]
  rfl

end

/-- Settles O32: past the header the packet is a body, and the flip leaves a body whose CRC field does not fit its payload
or whose stop byte is wrong; in the first byte it leaves no start marker. -/
theorem singleFlippedBitIsReported : Obligations.SingleFlippedBitIsReported := by
  intro p P f r i k h hp hpoly hf hk hh
  have hmax : P.length ≤ Config.maxPayload := (length_of_frame hf).1
  rw [frame_isSome hmax] at hf
  cases hf
  have hhd := isHeader_frameHeader hp hmax
  have hlen := length_frameHeader p P.length
  rw [← hh] at hlen
  generalize frameHeader p P.length = hd at hhd hlen ⊢
  have hcrc {P' : List Byte} {c : Half} (hP' : P'.length = P.length) (hc : c ≠ crc16 p P') :
      deframe p (hd ++ frameBody P' c p.stop ++ r) =
        .fail .frameIntegrityCrc (hd ++ frameBody P (crc16 p P) p.stop).length := by
    rw [← hP'] at hhd hmax
    rw [deframe_header_frameBody hhd hmax, if_neg (by simp), if_pos hc]
    simp [hP']
  refine ⟨fun hlo hup => ?_, fun hlast => ?_, fun h0 hshort hlong => ?_⟩
  · obtain ⟨j, rfl⟩ : ∃ j, i = hd.length + j := ⟨i - h, by omega⟩
    rw [List.length_append, length_frameBody] at hup
    rw [flipBit_append_length_add]
    rcases Nat.lt_or_ge j P.length with hj | hj
    · rw [flipBit_frameBody_payload _ _ _ hj]
      exact hcrc (length_flipBit P j k) (crc16From_flipBit_ne hpoly hj hk p.crcInit).symm
    · obtain ⟨m, rfl⟩ : ∃ m, j = P.length + m := ⟨j - P.length, by omega⟩
      obtain ⟨c', hne, hflip⟩ := flipBit_frameBody_crc P (crc16 p P) p.stop (i := m) (by omega) hk
      rw [hflip]
      exact hcrc rfl hne
  · obtain rfl : i = hd.length + (P.length + 2) := by
      rw [List.length_append, length_frameBody] at hlast
      omega
    rw [flipBit_append_length_add, flipBit_frameBody_stop, deframe_header_frameBody hhd hmax, if_pos (xor_bit_ne hk p.stop)]
    simp
  · have hpos : 1 ≤ (flipBit (hd ++ frameBody P (crc16 p P) p.stop) i k).length := by simp; omega
    subst h0
    exact deframe_of_badStart (by rw [List.length_append]; omega)
      (by rw [byteAt_append_left hpos]; exact headerLen_eq_none.2 ⟨hshort, hlong⟩)

end Machine
end Sys2Proof
end

section
/-! Deframer: the receive operation does what `deframe` says of the bytes taken (44_deframer.md R153 to R158, R162). The
checks after a byte are those of `deframe` on `RB[0..RCNT)`, as long as the bytes before it were incomplete; so what the
block makes of any bytes that wait is one expression, `State.received`. -/

namespace Sys2Proof
namespace Machine

/-! ## What a verdict does to the block -/

/-- Success of a receive, in terms of the payload (R157). -/
def State.deliverPayload (P : List Byte) (s : State) : State :=
  { s with
    pb := s.pb.writeRange 0 P
    plen := BitVec.ofNat 10 P.length, pcur := 0, rcnt := 0, rxst := .idle }.complete .ok (BitVec.ofNat 32 P.length)

/-- The writes a verdict asks for: none while incomplete, those of R158 on a failure, those of R157 on success. -/
def State.afterVerdict (v : Verdict) (s : State) : State :=
  match v with
  | .incomplete => s
  | .fail st _ => s.failReceive st
  | .ok P _ => s.deliverPayload P

/-- The bytes a receive has taken, `RB[0..RCNT)` (R28). -/
def State.taken (s : State) : List Byte := s.rb.readRange 0 s.rcnt.toNat

/-- `RB[RCNT..] <- bs`, all bytes of `bs` taken from the transport (R153 for each). -/
def State.storeAll (bs : List Byte) (s : State) : State :=
  { s with
    rb := s.rb.writeRange s.rcnt.toNat bs, rcnt := s.rcnt + BitVec.ofNat 10 bs.length, rxTaken := s.rxTaken ++ bs }

/-- How many bytes of `w`, waiting after `pre` has been taken, a receive takes: up to the verdict, or all (R153, R160). -/
def takenOf (p : Params) (pre w : List Byte) : Nat :=
  (deframe p (pre ++ w)).taken.getD (pre.length + w.length) - pre.length

/-- What the block makes of the waiting bytes `w`. -/
def State.received (w : List Byte) (s : State) : State :=
  ({ s with rxBuf := w.drop (takenOf s.params s.taken w) }.storeAll (w.take (takenOf s.params s.taken w))).afterVerdict
    (deframe s.params (s.taken ++ w))

/-- A receive that is not over: its bytes so far are incomplete. -/
structure State.Receiving (s : State) : Prop where
  rxst : s.rxst = .receiving
  rb_wf : s.rb.wf
  incomplete : deframe s.params s.taken = .incomplete

section
variable (s : State)

@[simp] theorem State.length_taken : s.taken.length = s.rcnt.toNat := Memory.length_readRange _ _ _

theorem State.receiveOk_eq_deliverPayload (h ld : Nat) :
    s.receiveOk h ld = s.deliverPayload (s.rb.readRange h ld) := by
  rw [State.receiveOk, State.deliverPayload, Memory.length_readRange]

theorem State.storeReceived_eq_storeAll (b : Byte) : s.storeReceived b = s.storeAll [b] := rfl

@[simp] theorem State.storeAll_nil : s.storeAll [] = s := by
  simp [State.storeAll, Memory.writeRange]

variable (v : Verdict)

@[simp] theorem State.afterVerdict_incomplete : s.afterVerdict .incomplete = s := rfl
@[simp] theorem State.afterVerdict_fail (st : Status) (n : Nat) : s.afterVerdict (.fail st n) = s.failReceive st := rfl
@[simp] theorem State.afterVerdict_ok (P : List Byte) (n : Nat) : s.afterVerdict (.ok P n) = s.deliverPayload P := rfl
@[simp] theorem State.afterVerdict_rb : (s.afterVerdict v).rb = s.rb := by cases v <;> rfl
@[simp] theorem State.afterVerdict_rxBuf : (s.afterVerdict v).rxBuf = s.rxBuf := by cases v <;> rfl
@[simp] theorem State.afterVerdict_rxTaken : (s.afterVerdict v).rxTaken = s.rxTaken := by cases v <;> rfl
@[simp] theorem State.afterVerdict_inputs : (s.afterVerdict v).inputs = s.inputs := by cases v <;> rfl
@[simp] theorem State.afterVerdict_params : (s.afterVerdict v).params = s.params := by cases v <;> rfl

theorem State.afterVerdict_idle_of_taken {v : Verdict} {n : Nat} (h : v.taken = some n) : (s.afterVerdict v).rxst = .idle := by
  cases v with
  | incomplete => cases h
  | fail => rfl
  | ok => rfl

/-- The verdict changes nothing of the send side. -/
theorem State.onlyReceiveSide_afterVerdict : OnlyReceiveSide s (s.afterVerdict v) := by cases v <;> rfl

end

theorem OnlyReceiveSide.trans {s t u : State} (h : OnlyReceiveSide s t) (h' : OnlyReceiveSide t u) : OnlyReceiveSide s u := by
  unfold OnlyReceiveSide at h h' ⊢
  rw [h', h]

/-! ## The checks after a byte (R154 to R156) -/

theorem Memory.drop_take_readRange (m : Memory) {n h ld : Nat} (hn : h + ld ≤ n) :
    ((m.readRange 0 n).drop h).take ld = m.readRange h ld := by
  apply List.ext_getElem
  · simp; omega
  · intro i h1 h2
    simp

section
variable {s : State} {b : Byte}

theorem State.byteAt_taken {i : Nat} (hi : i < s.rcnt.toNat) : byteAt s.taken i = s.rb.read i := by
  rw [State.taken, byteAt_readRange hi, Nat.zero_add]

/-- Once the header is complete, the declared length is that of the bytes taken: a short form has no third header byte. -/
theorem State.declaredLen_taken {h : Nat} (hh : h = 2 ∨ h = 3) (hle : h ≤ s.rcnt.toNat) :
    declaredLen h (byteAt s.taken 1) (byteAt s.taken 2) = declaredLen h (s.rb.read 1) (s.rb.read 2) := by
  rcases hh with rfl | rfl
  · rw [State.byteAt_taken (by omega)]
    rfl
  · rw [State.byteAt_taken (by omega), State.byteAt_taken (by omega)]

theorem State.validate_eq {h ld : Nat} (hr : s.rcnt.toNat = h + ld + 3) :
    s.validate h ld = s.afterVerdict (wholeVerdict s.params s.taken h ld) := by
  unfold State.validate wholeVerdict
  rw [State.byteAt_taken (by omega), State.byteAt_taken (by omega), State.byteAt_taken (by omega), State.taken,
    Memory.drop_take_readRange _ (by omega), State.receiveOk_eq_deliverPayload]
  split
  · rfl
  · split <;> rfl

/-- The checks of the block are those of `deframe`, on the bytes taken, if all but the last were incomplete. -/
theorem State.checkReceived_eq {pre : List Byte} (hpre : s.taken = pre ++ [b]) (hi : deframe s.params pre = .incomplete) :
    s.checkReceived = s.afterVerdict (deframe s.params s.taken) := by
  have hlen : s.rcnt.toNat = pre.length + 1 := by simpa using congrArg List.length hpre
  have h0 : byteAt s.taken 0 = s.rb.read 0 := State.byteAt_taken (by omega)
  unfold State.checkReceived
  cases hh : headerLen s.params (s.rb.read 0) with
  | none => rw [deframe_of_badStart (by rw [State.length_taken]; omega) (h0 ▸ hh)]; rfl
  | some h =>
    have hh' : headerLen s.params (byteAt s.taken 0) = some h := h0 ▸ hh
    have h23 := headerLen_cases hh
    rcases Nat.lt_or_ge s.rcnt.toNat h with hshort | hge
    · rw [deframe_of_short_header hh' (by simpa using hshort)]
      exact if_pos hshort
    have hld := State.declaredLen_taken h23 hge
    rw [deframe_of_header hh' (by simpa using hge), hld, State.length_taken]
    -- where the bytes before the last one stood
    have hpos : h ≤ pre.length → declaredLen h (s.rb.read 1) (s.rb.read 2) ≤ Config.maxPayload ∧
        pre.length < h + declaredLen h (s.rb.read 1) (s.rb.read 2) + 3 := by
      intro hle
      rw [← hld, hpre, byteAt_append_left (by omega)]
      have hb2 : declaredLen h (byteAt pre 1) (byteAt (pre ++ [b]) 2) = declaredLen h (byteAt pre 1) (byteAt pre 2) := by
        rcases h23 with rfl | rfl
        · rfl
        · rw [byteAt_append_left (by omega)]
      rw [hb2]
      rcases deframe_eq_incomplete_iff.1 hi with rfl | ⟨h', hh1, hpos⟩
      · simp at hle; omega
      · rw [hpre, byteAt_append_left (by omega), hh1] at hh'
        cases hh'
        exact hpos hle
    dsimp only
    generalize declaredLen h (s.rb.read 1) (s.rb.read 2) = ld at *
    rw [if_neg (Nat.not_lt.2 hge)]
    by_cases hmax : ld > Config.maxPayload
    · have hrh : s.rcnt.toNat = h := by
        by_contra hne
        exact absurd (hpos (by omega)).1 (Nat.not_le.2 hmax)
      rw [if_pos ⟨hrh, hmax⟩, if_pos hmax]
      rfl
    · rw [if_neg fun hc => hmax hc.2, if_neg hmax]
      by_cases hlt : s.rcnt.toNat < h + ld + 3
      · rw [if_neg (show ¬ s.rcnt.toNat = h + ld + 3 by omega), if_pos hlt]
        rfl
      · have hr : s.rcnt.toNat = h + ld + 3 := by
          by_cases hle : h ≤ pre.length
          · have := (hpos hle).2; omega
          · omega
        rw [if_pos hr, if_neg hlt, State.validate_eq hr]

/-! ## Bytes stored -/

theorem State.rcnt_lt_of_receiving (h : s.Receiving) : s.rcnt.toNat < Config.rbCap := by
  simpa using length_lt_of_deframe_incomplete h.incomplete

theorem State.toNat_rcnt_storeAll {bs : List Byte} (hlen : s.rcnt.toNat + bs.length < 1024) :
    (s.storeAll bs).rcnt.toNat = s.rcnt.toNat + bs.length := by
  show (s.rcnt + BitVec.ofNat 10 bs.length).toNat = _
  rw [BitVec.toNat_add, BitVec.toNat_ofNat]
  omega

theorem State.taken_storeAll (hwf : s.rb.wf) {bs : List Byte} (hlen : s.rcnt.toNat + bs.length < 1024) :
    (s.storeAll bs).taken = s.taken ++ bs := by
  have hr := State.toNat_rcnt_storeAll hlen
  apply List.ext_getElem
  · simp [hr]
  · intro i h1 h2
    rw [State.length_taken, hr] at h1
    rcases Nat.lt_or_ge i s.rcnt.toNat with hi | hi
    · rw [List.getElem_append_left (by simpa using hi)]
      simp [State.taken, State.storeAll, Memory.read_writeRange_outside _ _ _ _ (.inl hi)]
    · obtain ⟨k, rfl⟩ : ∃ k, i = s.rcnt.toNat + k := ⟨i - s.rcnt.toNat, by omega⟩
      rw [List.getElem_append_right (by simp)]
      simp [State.taken, State.storeAll, Memory.read_writeRange_inside hwf _ _ _ (show k < bs.length by omega)]

theorem State.storeAll_storeReceived (hlt : s.rcnt.toNat < Config.rbCap) (bs : List Byte) :
    (s.storeReceived b).storeAll bs = s.storeAll (b :: bs) := by
  have hr : (s.rcnt + 1).toNat = s.rcnt.toNat + 1 := by
    rw [BitVec.toNat_add]
    have : s.rcnt.toNat < 518 := hlt
    exact Nat.mod_eq_of_lt (by simp; omega)
  have hsum : s.rcnt + 1 + BitVec.ofNat 10 bs.length = s.rcnt + BitVec.ofNat 10 (b :: bs).length := by
    rw [List.length_cons, BitVec.add_assoc, Nat.add_comm bs.length 1, BitVec.ofNat_add]
    rfl
  unfold State.storeAll State.storeReceived
  simp only [hr, hsum, Memory.writeRange, List.append_assoc, List.singleton_append]

/-! ## One byte, and all that wait -/

theorem State.Receiving.withRxBuf (h : s.Receiving) (w : List Byte) : { s with rxBuf := w }.Receiving :=
  ⟨h.rxst, h.rb_wf, h.incomplete⟩

theorem State.taken_storeReceived (h : s.Receiving) (b : Byte) : (s.storeReceived b).taken = s.taken ++ [b] := by
  have hlt : s.rcnt.toNat < 518 := State.rcnt_lt_of_receiving h
  exact State.taken_storeAll h.rb_wf (bs := [b]) (show s.rcnt.toNat + 1 < 1024 by omega)

/-- A byte taken is stored, and then the verdict on the bytes taken so far is carried out (R153 to R158). -/
theorem State.takeByte_eq (h : s.Receiving) (b : Byte) :
    s.takeByte b = .next ((s.storeReceived b).afterVerdict (deframe s.params (s.taken ++ [b]))) := by
  have ht := State.taken_storeReceived h b
  have hcheck := State.checkReceived_eq ht h.incomplete
  rw [ht] at hcheck
  rw [State.takeByte, if_pos (State.rcnt_lt_of_receiving h), hcheck]
  rfl

theorem State.Receiving.storeReceived (h : s.Receiving) (hi : deframe s.params (s.taken ++ [b]) = .incomplete) :
    (s.storeReceived b).Receiving :=
  ⟨h.rxst, Memory.wf_write h.rb_wf _ _, by rw [State.taken_storeReceived h]; exact hi⟩

/-- Of waiting bytes that stay incomplete all are taken. -/
theorem takenOf_of_incomplete {p : Params} {pre w : List Byte} (hi : deframe p (pre ++ w) = .incomplete) :
    takenOf p pre w = w.length := by
  rw [takenOf, hi]
  exact Nat.add_sub_cancel_left _ _

theorem takenOf_of_taken {p : Params} {pre w : List Byte} {n : Nat} (ht : (deframe p (pre ++ w)).taken = some n) :
    takenOf p pre w = n - pre.length := by
  rw [takenOf, ht]
  rfl

/-- Taking all that waits comes to the verdict on the bytes taken before and those that wait (R162). -/
theorem takeWaiting_eq (bs : List Byte) : ∀ {s : State}, s.Receiving → s.rxBuf = bs → takeWaiting bs s = .next (s.received bs) := by
  induction bs with
  | nil =>
    intro s h hbuf
    have hv : deframe s.params (s.taken ++ []) = .incomplete := by rw [List.append_nil, h.incomplete]
    have hs : { s with rxBuf := [] } = s := by rw [← hbuf]
    rw [State.received, hv, takenOf_of_incomplete hv]
    show Host.Outcome.next s = .next ({ s with rxBuf := [] }.storeAll [])
    rw [State.storeAll_nil, hs]
  | cons b bs ih =>
    intro s h hbuf
    have hlt := State.rcnt_lt_of_receiving h
    rw [takeWaiting_cons h.rxst, State.takeByte_eq (h.withRxBuf bs)]
    show takeWaiting bs (({ s with rxBuf := bs }.storeReceived b).afterVerdict (deframe s.params (s.taken ++ [b]))) = _
    cases ht : (deframe s.params (s.taken ++ [b])).taken with
    | none =>
      have hi := Verdict.taken_eq_none.1 ht
      have hrec := (h.withRxBuf bs).storeReceived hi
      have htaken : ({ s with rxBuf := bs }.storeReceived b).taken = s.taken ++ [b] :=
        State.taken_storeReceived (h.withRxBuf bs) b
      have hcount : takenOf s.params s.taken (b :: bs) = takenOf s.params (s.taken ++ [b]) bs + 1 := by
        cases hv : (deframe s.params (s.taken ++ b :: bs)).taken with
        | none =>
          rw [takenOf_of_incomplete (Verdict.taken_eq_none.1 hv), takenOf_of_incomplete]
          · rfl
          · rw [List.append_assoc]; exact Verdict.taken_eq_none.1 hv
        | some n =>
          have hn := lt_taken_of_incomplete (r := bs) hi (by rw [List.append_assoc]; exact hv)
          rw [takenOf_of_taken hv, takenOf_of_taken (n := n) (by rw [List.append_assoc]; exact hv)]
          rw [List.length_append] at hn ⊢
          simp at hn ⊢
          omega
      rw [hi, State.afterVerdict_incomplete, ih hrec rfl, State.received, htaken]
      show Host.Outcome.next ((({ s with rxBuf := bs.drop (takenOf s.params (s.taken ++ [b]) bs) }.storeReceived b).storeAll
        (bs.take (takenOf s.params (s.taken ++ [b]) bs))).afterVerdict _) = _
      rw [State.storeAll_storeReceived (by exact hlt), List.append_assoc, State.received, hcount]
      rfl
    | some n =>
      have hn : n = s.rcnt.toNat + 1 := by
        have h1 := (deframe_take_append ht []).1
        have h2 := lt_taken_of_incomplete h.incomplete ht
        simp at h1 h2
        omega
      have hv : deframe s.params (s.taken ++ b :: bs) = deframe s.params (s.taken ++ [b]) := by
        rw [← deframe_append ht bs, List.append_assoc]
        rfl
      have hcount : takenOf s.params s.taken (b :: bs) = 1 := by
        rw [takenOf_of_taken (n := n) (by rw [hv, ht]), State.length_taken, hn, Nat.add_sub_cancel_left]
      rw [takeWaiting_idle (State.afterVerdict_idle_of_taken _ ht), State.received, hcount, hv]
      rfl

/-- The bytes that are delivered join those that wait, and are taken with them (R13 (d), R153). -/
theorem State.deliver_eq (h : s.Receiving) (bs : List Byte) : s.deliver bs = .next (s.received (s.rxBuf ++ bs)) :=
  takeWaiting_eq (s.rxBuf ++ bs) (h.withRxBuf _) rfl

end

end Machine
end Sys2Proof
end

section
/-! Deframer: the command `RECV` and the single receive events (44_deframer.md R152 to R159, 60_exceptions.md R207). A
receive in a state of R38 is one that is not over, so a byte taken is stored and the verdict on the bytes taken is carried
out. -/

namespace Sys2Proof
namespace Machine

/-! ## States of R38 -/

section
variable {s : State}

/-- R38 (h) says that the bytes taken are incomplete. -/
theorem State.deframe_taken_eq_incomplete_iff :
    deframe s.params s.taken = .incomplete ↔ (1 ≤ s.rcnt.toNat → s.insideFrame) := by
  rw [deframe_eq_incomplete_iff, State.length_taken, ← List.length_eq_zero_iff, State.length_taken]
  rcases Nat.eq_zero_or_pos s.rcnt.toNat with h0 | h1
  · simp [h0]
  have hpos {h : Nat} (hh : headerLen s.params (s.rb.read 0) = some h) (hle : h ≤ s.rcnt.toNat) :=
    State.declaredLen_taken (headerLen_cases hh) hle
  rw [State.byteAt_taken h1]
  constructor
  · rintro (h0 | ⟨h, hh, hin⟩) -
    · omega
    · exact ⟨h, hh, fun hle => hpos hh hle ▸ hin hle⟩
  · intro hin
    obtain ⟨h, hh, hin⟩ := hin h1
    exact .inr ⟨h, hh, fun hle => (hpos hh hle).symm ▸ hin hle⟩

theorem BlockInv.receiving (h : BlockInv s) (hr : s.rxst = .receiving) : s.Receiving :=
  ⟨hr, h.rb_wf, State.deframe_taken_eq_incomplete_iff.2 (h.position hr)⟩

theorem State.taken_of_rcnt_eq_zero (h : s.rcnt = 0) : s.taken = [] := by
  rw [← List.length_eq_zero_iff, State.length_taken, h]
  rfl

/-- A receive that has taken nothing is not over. -/
theorem State.receiving_of_rcnt_eq_zero (hr : s.rxst = .receiving) (hwf : s.rb.wf) (h : s.rcnt = 0) : s.Receiving :=
  ⟨hr, hwf, by rw [State.taken_of_rcnt_eq_zero h]; rfl⟩

/-! ## The step of an event -/

variable {rest : List Input} {b : Byte} {bs : List Byte}

theorem State.Receiving.withInputs (h : s.Receiving) (xs : List Input) (w : List Byte) :
    { s with inputs := xs, rxBuf := w }.Receiving := ⟨h.rxst, h.rb_wf, h.incomplete⟩

theorem eventRxByte_idle (hi : s.rxst = .idle) : eventRxByte s = .fault .rxByteNotEnabled := by
  simp only [eventRxByte, hi]

theorem eventRxByte_nil (hb : s.rxBuf = []) : eventRxByte s = .fault .rxByteNotEnabled := by
  rw [eventRxByte, hb]
  cases s.rxst <;> rfl

theorem eventTimeout_idle (hi : s.rxst = .idle) : eventTimeout s = .fault .timeoutNotEnabled := by
  simp only [eventTimeout, hi]

theorem eventRxByte_cons (hr : s.rxst = .receiving) (hb : s.rxBuf = b :: bs) :
    eventRxByte s = { s with rxBuf := bs }.takeByte b := by
  rw [eventRxByte, hr, hb]

/-- The event that takes a byte carries out the verdict on the bytes taken (R153 to R158). -/
theorem eventRxByte_eq (h : s.Receiving) (hb : s.rxBuf = b :: bs) :
    eventRxByte s = .next (({ s with rxBuf := bs }.storeReceived b).afterVerdict (deframe s.params (s.taken ++ [b]))) := by
  rw [eventRxByte_cons h.rxst hb, State.takeByte_eq (h.withRxBuf bs)]
  rfl

theorem step_rxByte (hs : s.inputs = .rxByte :: rest) (hr : s.rxst = .receiving) (hb : s.rxBuf = b :: bs) :
    step s = { s with inputs := rest, rxBuf := bs }.takeByte b :=
  (step_cons hs).trans (eventRxByte_cons (s := { s with inputs := rest }) hr hb)

theorem step_rxByte_eq (h : s.Receiving) (hs : s.inputs = .rxByte :: rest) (hb : s.rxBuf = b :: bs) :
    step s = .next (({ s with inputs := rest, rxBuf := bs }.storeReceived b).afterVerdict
      (deframe s.params (s.taken ++ [b]))) :=
  (step_cons hs).trans (eventRxByte_eq (h.withInputs rest s.rxBuf) hb)

theorem step_timeout (hs : s.inputs = .timeout :: rest) (hr : s.rxst = .receiving) :
    step s = .next ({ s with inputs := rest }.failReceive .frameTimeout) := by
  rw [step_cons hs, runInput, eventTimeout]
  simp only [hr]

/-- Once the last byte of the declared frame is stored, the frame is validated (R156). -/
theorem State.checkReceived_of_whole {h ld : Nat} (hh : headerLen s.params (s.rb.read 0) = some h)
    (hld : declaredLen h (s.rb.read 1) (s.rb.read 2) = ld) (hr : s.rcnt.toNat = h + ld + 3) :
    s.checkReceived = s.validate h ld := by
  simp only [State.checkReceived, hh, hld]
  rw [if_neg (by omega), if_neg (by omega), if_pos hr]

end

/-! ## The obligations -/

/-- Settles O33. -/
theorem recvStartsAReceive : Obligations.RecvStartsAReceive := by
  refine ⟨fun w h => by rw [decodeCommand, h]; rfl, fun s hi => ?_⟩
  rw [exec, execRecv, State.accept_idle hi]

/-- Settles O34: if the block is still receiving, the verdict was that the bytes are incomplete, which asks for nothing. -/
theorem rxByteThatDoesNotCompleteOnlyStores : Obligations.RxByteThatDoesNotCompleteOnlyStores := by
  intro s rest b bs hinv hs hr hb
  have h := hinv.receiving hr
  refine ⟨_, step_rxByte_eq h hs hb, State.afterVerdict_rxBuf _ _, State.afterVerdict_rxTaken _ _, fun hstill => ?_⟩
  have hlt : s.rcnt.toNat < 518 := State.rcnt_lt_of_receiving h
  have hi : deframe s.params (s.taken ++ [b]) = .incomplete := by
    cases ht : (deframe s.params (s.taken ++ [b])).taken with
    | none => exact Verdict.taken_eq_none.1 ht
    | some n => cases hstill.symm.trans (State.afterVerdict_idle_of_taken _ ht)
  rw [hi]
  exact ⟨Memory.read_write_same h.rb_wf _ _, fun a ha => Memory.read_write_other _ _ ha,
    State.toNat_rcnt_storeAll (bs := [b]) (show s.rcnt.toNat + 1 < 1024 by omega), rfl⟩

/-- Settles O35: the one byte taken has the verdict `FRAME_BAD_START`. -/
theorem badStartFailsAtTheFirstByte : Obligations.BadStartFailsAtTheFirstByte := by
  intro s rest b bs hwf hs hr h0 hb hshort hlong
  have hv : deframe s.params ([] ++ [b]) = .fail .frameBadStart 1 :=
    deframe_of_badStart (s := [b]) (Nat.le_refl 1) (headerLen_eq_none.2 ⟨hshort, hlong⟩)
  have hstep := step_rxByte_eq (State.receiving_of_rcnt_eq_zero hr hwf h0) hs hb
  rw [State.taken_of_rcnt_eq_zero h0, hv] at hstep
  refine ⟨_, hstep, rfl, rfl, rfl, rfl, rfl, rfl, rfl, rfl, rfl, fun a ha => ?_, rfl, rfl⟩
  exact Memory.read_write_other _ _ (by rw [h0]; exact ha)

/-- The verdict on the three header bytes of a long form (R155). -/
theorem deframe_long_header {p : Params} (hp : p.wf) (hi lo : Byte) :
    deframe p [p.startLong, hi, lo] =
      if 512 < hi.toNat * 256 + lo.toNat then .fail .frameBadLength 3 else .incomplete := by
  rw [deframe_of_header (s := [p.startLong, hi, lo]) (h := 3) (headerLen_startLong hp) (Nat.le_refl 3)]
  show (if declaredLen 3 hi lo > Config.maxPayload then _ else if 3 < 3 + declaredLen 3 hi lo + 3 then _ else _) = _
  rw [if_pos (show 3 < 3 + declaredLen 3 hi lo + 3 by omega)]
  rfl

/-- Settles O36: the bytes taken are the header of a long form. -/
theorem badLengthFailsAtTheThirdByte : Obligations.BadLengthFailsAtTheThirdByte := by
  intro s rest b bs hinv hs hr h2 hb hlong
  have h := hinv.receiving hr
  have htaken : s.taken ++ [b] = [s.params.startLong, s.rb.read 1, b] := by
    rw [State.taken, h2, ← hlong]
    rfl
  have hstep := step_rxByte_eq h hs hb
  rw [htaken, deframe_long_header hinv.params_wf] at hstep
  have hrb (a : Nat) (ha : a ≠ 2) : (s.rb.write s.rcnt.toNat b).read a = s.rb.read a :=
    Memory.read_write_other _ _ (by rw [h2]; exact ha)
  rcases Nat.lt_or_ge 512 ((s.rb.read 1).toNat * 256 + b.toNat) with hbig | hsmall
  · rw [if_pos hbig] at hstep
    exact ⟨_, hstep, rfl, rfl, rfl, hrb, rfl, rfl, fun _ => ⟨rfl, rfl, rfl, rfl, rfl, rfl⟩,
      fun hle => absurd hbig (Nat.not_lt.2 hle)⟩
  · rw [if_neg (Nat.not_lt.2 hsmall)] at hstep
    refine ⟨_, hstep, rfl, rfl, rfl, hrb, rfl, rfl, fun hgt => absurd hgt (Nat.not_lt.2 hsmall), fun _ =>
      ⟨hr, ?_, ?_, rfl, rfl, rfl, rfl⟩⟩
    · show s.rcnt + 1 = 3
      rw [h2]
      rfl
    · show (s.rb.write s.rcnt.toNat b).read 2 = b
      rw [h2]
      exact Memory.read_write_same h.rb_wf 2 b

/-- Settles O37: with the last byte stored the block validates the frame. -/
theorem lastByteValidatesTheFrame : Obligations.LastByteValidatesTheFrame := by
  intro s rest b bs h ld hinv hs hr hb hh hld hcnt
  have hrec := hinv.receiving hr
  have hlt : s.rcnt.toNat < 518 := State.rcnt_lt_of_receiving hrec
  have hge : 2 ≤ h := by rcases headerLen_cases hh with rfl | rfl <;> omega
  have same {a : Nat} (ha : a ≠ s.rcnt.toNat) : (s.rb.write s.rcnt.toNat b).read a = s.rb.read a :=
    Memory.read_write_other _ _ ha
  have hstop : (s.rb.write s.rcnt.toNat b).read (h + ld + 2) = b := by
    rw [show h + ld + 2 = s.rcnt.toNat by omega]
    exact Memory.read_write_same hrec.rb_wf _ _
  have hpay : (s.rb.write s.rcnt.toNat b).readRange h ld = s.rb.readRange h ld :=
    Memory.readRange_congr fun i _ hi => same (by omega)
  have hstep : step s = .next (({ s with inputs := rest, rxBuf := bs }.storeReceived b).validate h ld) := by
    rw [step_rxByte hs hr hb, State.takeByte, if_pos (State.rcnt_lt_of_receiving hrec), State.checkReceived_of_whole]
    · rw [← hh]
      exact congrArg (headerLen s.params) (same (by omega))
    · rw [hld]
      exact congrArg₂ (declaredLen h) (same (by omega)) (same (by omega))
    · rw [State.storeReceived_eq_storeAll, State.toNat_rcnt_storeAll]
      · exact hcnt
      · show s.rcnt.toNat + 1 < 1024
        omega
  have hvalidate : ({ s with inputs := rest, rxBuf := bs }.storeReceived b).validate h ld =
      if b ≠ s.params.stop then ({ s with inputs := rest, rxBuf := bs }.storeReceived b).failReceive .frameIntegrityStop
      else if half (s.rb.read (h + ld)) (s.rb.read (h + ld + 1)) ≠ crc16 s.params (s.rb.readRange h ld) then
        ({ s with inputs := rest, rxBuf := bs }.storeReceived b).failReceive .frameIntegrityCrc
      else ({ s with inputs := rest, rxBuf := bs }.storeReceived b).receiveOk h ld := by
    unfold State.validate
    simp only [State.storeReceived_rb, State.storeReceived_params, hstop, hpay, same (show h + ld ≠ s.rcnt.toNat by omega),
      same (show h + ld + 1 ≠ s.rcnt.toNat by omega)]
  rw [hvalidate] at hstep
  by_cases hb' : b = s.params.stop
  · rw [if_neg (not_not.2 hb')] at hstep
    by_cases hcrc : half (s.rb.read (h + ld)) (s.rb.read (h + ld + 1)) = crc16 s.params (s.rb.readRange h ld)
    · rw [if_neg (not_not.2 hcrc)] at hstep
      refine ⟨_, hstep, rfl, rfl, rfl, rfl, rfl, fun a ha => same ha, rfl, rfl, fun hne => absurd hb' hne,
        fun _ hne => absurd hcrc hne, fun _ _ => ⟨rfl, ?_, rfl, fun k hk => ?_, fun a ha => ?_⟩⟩
      · show (BitVec.ofNat 10 ld).toNat = ld
        rw [BitVec.toNat_ofNat]
        omega
      · have hread := Memory.read_writeRange_inside hinv.pb_wf 0 ((s.rb.write s.rcnt.toNat b).readRange h ld) k (by simpa using hk)
        rw [Nat.zero_add, Memory.getElem_readRange, same (by omega)] at hread
        exact hread
      · exact Memory.read_writeRange_outside _ _ _ _ (.inr (by simpa using ha))
    · rw [if_pos hcrc] at hstep
      exact ⟨_, hstep, rfl, rfl, rfl, rfl, rfl, fun a ha => same ha, rfl, rfl, fun hne => absurd hb' hne,
        fun _ _ => ⟨rfl, rfl, rfl, rfl⟩, fun _ heq => absurd heq hcrc⟩
  · rw [if_pos hb'] at hstep
    exact ⟨_, hstep, rfl, rfl, rfl, rfl, rfl, fun a ha => same ha, rfl, rfl, fun _ => ⟨rfl, rfl, rfl, rfl⟩,
      fun heq => absurd heq hb', fun heq => absurd heq hb'⟩

/-- Settles O38. -/
theorem timeoutFailsAReceiveAtAnyPoint : Obligations.TimeoutFailsAReceiveAtAnyPoint := by
  intro s rest hs
  exact ⟨step_timeout hs, fun hi => (step_cons hs).trans (eventTimeout_idle (s := { s with inputs := rest }) hi)⟩

/-- Settles O39. -/
theorem byteAndTimeoutMayEachComeFirst : Obligations.ByteAndTimeoutMayEachComeFirst := by
  intro s rest hinv hr hbuf
  obtain ⟨b, bs, hb⟩ := List.exists_cons_of_ne_nil hbuf
  have h := (hinv.receiving hr).withInputs (.rxByte :: rest) s.rxBuf
  refine ⟨⟨_, step_rxByte_eq h rfl hb, ?_⟩, ⟨_, step_timeout rfl hr, rfl, rfl⟩⟩
  rw [State.afterVerdict_rxBuf, hb]
  rfl

/-- Settles O40: an idle block leaves what is delivered where it is. -/
theorem framesWaitWhileIdle : Obligations.FramesWaitWhileIdle := by
  intro s hi
  exact ⟨fun _ _ _ _ => State.deliver_idle hi _, fun _ _ _ _ => State.deliver_idle hi _, fun b rest hs => step_cons hs,
    fun rest hs => (step_cons hs).trans (eventRxByte_idle (s := { s with inputs := rest }) hi)⟩

end Machine
end Sys2Proof
end

section
/-! Deframer: bytes delivered in one step (30_encoding.md R71, R72; 44_deframer.md R160 to R162; 70_reset_and_hazards.md
R233). Every wire input is the delivery of its bytes; to a receive that is not over a delivery is `State.received`, to an
idle block it only adds to the waiting bytes. -/

namespace Sys2Proof
namespace Machine

/-! ## Wire inputs are deliveries -/

section
variable {s t : State}

theorem exec_of_encode_eq_wire {i : Instr} {f : List Byte} (h : encode s.params i = .wire f) : exec i s = s.deliver f := by
  cases i
  case frameShort | frameLong =>
    cases h
    rfl
  all_goals cases h

/-- Wire bytes are delivered as they come: a frame is encoded by the very bytes it was decoded from. -/
theorem runWire_eq (bs : List Byte) (s : State) : runWire bs s = s.deliver bs := by
  unfold runWire
  split
  · exact exec_of_encode_eq_wire (encode_of_decode_wire ‹_›)
  · rfl

theorem step_wire {bs : List Byte} {rest : List Input} (hs : s.inputs = .wire bs :: rest) :
    step s = { s with inputs := rest }.deliver bs := by
  rw [step_cons hs, runInput, runWire_eq]

/-- The code of a frame is bytes on the wire. -/
theorem exists_encode_eq_wire (p : Params) {payload : List Byte} {crc : Half} {stop : Byte} {i : Instr}
    (hi : (∃ len, i = .frameShort len payload crc stop) ∨ (∃ len, i = .frameLong len payload crc stop)) :
    ∃ f, encode p i = .wire f := by
  obtain ⟨len, rfl⟩ | ⟨len, rfl⟩ := hi
  · exact ⟨_, rfl⟩
  · exact ⟨_, rfl⟩

/-- The bytes of a well-formed frame are a header and a body. -/
theorem exists_header_of_wellFormed {p : Params} (hp : p.wf) {payload : List Byte} {crc : Half} {stop : Byte} {i : Instr}
    (hwf : i.wellFormed = true)
    (hi : (∃ len, i = .frameShort len payload crc stop) ∨ (∃ len, i = .frameLong len payload crc stop)) :
    ∃ hd, encode p i = .wire (hd ++ frameBody payload crc stop) ∧ IsHeader p hd payload.length ∧
      payload.length ≤ Config.maxPayload := by
  unfold Config.maxPayload
  obtain ⟨len, rfl⟩ | ⟨len, rfl⟩ := hi
  · have hlen : payload.length = len.toNat := by simpa [Instr.wellFormed] using hwf
    exact ⟨[p.startShort, len], rfl, hlen ▸ isHeader_short p len, by omega⟩
  · obtain ⟨hlen, hmax⟩ : payload.length = len.toNat ∧ len.toNat ≤ 512 := by simpa [Instr.wellFormed] using hwf
    exact ⟨[p.startLong, hiByte len, loByte len], rfl, hlen ▸ isHeader_long hp len, by omega⟩

/-! ## What a delivery changes -/

variable (w : List Byte)

@[simp] theorem State.received_rxBuf : (s.received w).rxBuf = w.drop (takenOf s.params s.taken w) :=
  State.afterVerdict_rxBuf _ _

@[simp] theorem State.received_rxTaken : (s.received w).rxTaken = s.rxTaken ++ w.take (takenOf s.params s.taken w) :=
  State.afterVerdict_rxTaken _ _

@[simp] theorem State.received_inputs : (s.received w).inputs = s.inputs := State.afterVerdict_inputs _ _

theorem State.onlyReceiveSide_received : OnlyReceiveSide s (s.received w) := by
  unfold State.received
  cases deframe s.params (s.taken ++ w) <;> rfl

/-- The bytes of `RB` past those taken keep their value (log 8). -/
theorem State.read_rb_received {a : Nat} (ha : s.rcnt.toNat + w.length ≤ a) : (s.received w).rb.read a = s.rb.read a := by
  rw [State.received, State.afterVerdict_rb]
  refine Memory.read_writeRange_outside _ _ _ _ (.inr ?_)
  rw [List.length_take]
  show s.rcnt.toNat + _ ≤ a
  omega

variable {w}

theorem State.received_of_incomplete (hv : deframe s.params (s.taken ++ w) = .incomplete) :
    s.received w = { s with rxBuf := [] }.storeAll w := by
  rw [State.received, takenOf_of_incomplete hv, hv, List.drop_length, List.take_length]
  rfl

/-- When nothing was taken before, the verdict is that on the waiting bytes, and they are taken up to it. -/
theorem State.received_of_rcnt_eq_zero {n : Nat} (h0 : s.rcnt = 0) (ht : (deframe s.params w).taken = some n) :
    s.received w = ({ s with rxBuf := w.drop n }.storeAll (w.take n)).afterVerdict (deframe s.params w) := by
  have hnone := State.taken_of_rcnt_eq_zero h0
  have hcount : takenOf s.params s.taken w = n := by
    rw [hnone]
    exact takenOf_of_taken ht
  rw [State.received, hcount, hnone]
  rfl

/-- After a verdict that is not `Incomplete` the block is idle and has answered once, with the status in `STATUS`. -/
theorem State.afterVerdict_answers {v : Verdict} {n : Nat} (h : v.taken = some n) :
    ∃ r, (s.afterVerdict v).responses = s.responses ++ [r] ∧ (s.afterVerdict v).status = r.status := by
  cases v with
  | incomplete => cases h
  | fail => exact ⟨_, rfl, rfl⟩
  | ok => exact ⟨_, rfl, rfl⟩

theorem Memory.readRange_writeRange {m : Memory} (hm : m.wf) (a : Nat) (bs : List Byte) :
    (m.writeRange a bs).readRange a bs.length = bs := by
  apply List.ext_getElem (by simp)
  intro i h1 h2
  rw [Memory.getElem_readRange, Memory.read_writeRange_inside hm a bs i h2]

theorem State.deliverPayload_pb (hwf : s.pb.wf) (P : List Byte) :
    (s.deliverPayload P).pb.readRange 0 P.length = P ∧ ∀ a, P.length ≤ a → (s.deliverPayload P).pb.read a = s.pb.read a :=
  ⟨Memory.readRange_writeRange hwf 0 P, fun _ ha => Memory.read_writeRange_outside _ _ _ _ (.inr (by omega))⟩

theorem State.deliverPayload_plen {P : List Byte} (h : P.length ≤ Config.maxPayload) :
    (s.deliverPayload P).plen.toNat = P.length := by
  unfold Config.maxPayload at h
  show (BitVec.ofNat 10 P.length).toNat = _
  rw [BitVec.toNat_ofNat]
  omega

/-! ## A delivery is its single events (R58, R153) -/

/-- The checks after a byte come to some verdict, in whatever state. -/
theorem State.exists_checkReceived_eq_afterVerdict (s : State) : ∃ v, s.checkReceived = s.afterVerdict v := by
  obtain ⟨st, hf, -⟩ | ⟨h, -, -, hok⟩ | ⟨hwait, -⟩ := s.checkReceived_cases
  · exact ⟨.fail st 0, hf⟩
  · exact ⟨.ok _ 0, hok.trans (s.receiveOk_eq_deliverPayload h _)⟩
  · exact ⟨.incomplete, hwait⟩

theorem State.takeByte_withInputs {b : Byte} (h : s.takeByte b = .next t) (xs : List Input) :
    { s with inputs := xs }.takeByte b = .next { t with inputs := xs } := by
  obtain ⟨hlt, rfl⟩ := State.takeByte_eq_next h
  rw [← State.checkReceived_withInputs, State.takeByte, if_pos hlt]
  rfl

theorem core_run_succ {M : Host.Core} {u v : M.State} (h : M.step u = .next v) (k : Nat) : M.run (k + 1) u = M.run k v := by
  rw [Host.Core.run, h]

theorem run_succ_of_step (h : step s = .next t) (k : Nat) : Sys2Proof.core.run (k + 1) s = Sys2Proof.core.run k t :=
  core_run_succ (M := Sys2Proof.core) h k

/-- Bytes that arrive one by one only add to those that wait. -/
theorem run_arrivals (bs : List Byte) : ∀ (s : State) (k : Nat) (rest : List Input),
    Sys2Proof.core.run (bs.length + k) { s with inputs := bs.map Input.arrive ++ rest } =
      Sys2Proof.core.run k { s with inputs := rest, rxBuf := s.rxBuf ++ bs } := by
  induction bs with
  | nil => intro s k rest; simp
  | cons b bs ih =>
    intro s k rest
    have hstep : step { s with inputs := (b :: bs).map Input.arrive ++ rest } =
        .next { s with inputs := bs.map Input.arrive ++ rest, rxBuf := s.rxBuf ++ [b] } := rfl
    rw [List.length_cons, Nat.add_right_comm, run_succ_of_step hstep]
    refine (ih { s with rxBuf := s.rxBuf ++ [b] } k rest).trans ?_
    rw [List.append_assoc, List.singleton_append]

/-- The waiting bytes taken in one step are as many `RX_BYTE` events. -/
theorem run_rxBytes (w : List Byte) : ∀ {s t : State}, s.rxBuf = w → takeWaiting w s = .next t →
    ∃ n, t.rxTaken.length = s.rxTaken.length + n ∧
      Sys2Proof.core.run n { s with inputs := List.replicate n Input.rxByte ++ s.inputs } = .next t := by
  induction w with
  | nil =>
    intro s t _ h
    cases h
    exact ⟨0, rfl, rfl⟩
  | cons b w ih =>
    intro s t hbuf h
    rcases s.idle_or_receiving with hr | hr
    · rw [takeWaiting_idle hr] at h
      cases h
      exact ⟨0, rfl, rfl⟩
    · rw [takeWaiting_cons hr] at h
      split at h
      · next u hu =>
        obtain ⟨v, hv⟩ := State.exists_checkReceived_eq_afterVerdict ({ s with rxBuf := w }.storeReceived b)
        obtain ⟨-, hcheck⟩ := State.takeByte_eq_next hu
        rw [hv] at hcheck
        obtain ⟨n, htaken, hrun⟩ := ih (by rw [hcheck, State.afterVerdict_rxBuf]; rfl) h
        refine ⟨n + 1, ?_, ?_⟩
        · simp [htaken, hcheck, Nat.add_assoc, Nat.add_comm 1]
        · have hinputs : u.inputs = s.inputs := by rw [hcheck, State.afterVerdict_inputs]; rfl
          have hstep : step { s with inputs := List.replicate (n + 1) Input.rxByte ++ s.inputs } =
              .next { u with inputs := List.replicate n Input.rxByte ++ s.inputs } := by
            refine (step_rxByte (s := { s with inputs := List.replicate (n + 1) Input.rxByte ++ s.inputs }) rfl hr hbuf).trans ?_
            exact State.takeByte_withInputs hu _
          rw [run_succ_of_step hstep, ← hinputs, hrun]
      · cases h
      · cases h

end

/-! ## The obligations -/

/-- Settles O41: the frame is a header and a body, so its verdict is decided by its stop byte and its CRC field, and takes
all of it. -/
theorem frameCompletesAWaitingReceive : Obligations.FrameCompletesAWaitingReceive := by
  intro s payload crc stop i hp hrb hpb hr h0 hbuf hwf hi
  obtain ⟨hd, hf, hhd, hmax⟩ := exists_header_of_wellFormed hp hwf hi
  generalize hfdef : hd ++ frameBody payload crc stop = f at hf
  have hv := deframe_header_frameBody hhd hmax crc stop []
  rw [List.append_nil, hfdef] at hv
  have hexec : exec i s = .next (s.received f) := by
    rw [exec_of_encode_eq_wire hf, State.deliver_eq (State.receiving_of_rcnt_eq_zero hr hrb h0), hbuf, List.nil_append]
  have hrest (a : Nat) (ha : f.length ≤ a) : (s.received f).rb.read a = s.rb.read a :=
    State.read_rb_received f (by simpa [h0] using ha)
  have hreceived (ht : (deframe s.params f).taken = some f.length) :
      s.received f = ({ s with rxBuf := [] }.storeAll f).afterVerdict (deframe s.params f) := by
    rw [State.received_of_rcnt_eq_zero h0 ht, List.drop_length, List.take_length]
  have hside := State.onlyReceiveSide_received (s := s) f
  by_cases hstop : stop = s.params.stop
  · rw [if_neg (not_not.2 hstop)] at hv
    by_cases hcrc : crc = crc16 s.params payload
    · rw [if_neg (not_not.2 hcrc)] at hv
      have hrec := hreceived (by rw [hv]; rfl)
      rw [hv] at hrec
      rw [hrec] at hexec hrest hside
      have hpayload := State.deliverPayload_pb (s := { s with rxBuf := [] }.storeAll f) hpb payload
      exact ⟨_, f, hf, hexec, rfl, rfl, rfl, rfl, rfl, hrest, rfl, hside, fun hne => absurd hstop hne,
        fun _ hne => absurd hcrc hne,
        fun _ _ => ⟨State.deliverPayload_plen hmax, rfl, hpayload.1, hpayload.2, rfl⟩⟩
    · rw [if_pos hcrc] at hv
      have hrec := hreceived (by rw [hv]; rfl)
      rw [hv] at hrec
      rw [hrec] at hexec hrest hside
      exact ⟨_, f, hf, hexec, rfl, rfl, rfl, rfl, rfl, hrest, rfl, hside, fun hne => absurd hstop hne,
        fun _ _ => ⟨rfl, rfl, rfl, rfl⟩, fun _ heq => absurd heq hcrc⟩
  · rw [if_pos hstop] at hv
    have hrec := hreceived (by rw [hv]; rfl)
    rw [hv] at hrec
    rw [hrec] at hexec hrest hside
    exact ⟨_, f, hf, hexec, rfl, rfl, rfl, rfl, rfl, hrest, rfl, hside, fun _ => ⟨rfl, rfl, rfl, rfl⟩,
      fun heq => absurd heq hstop, fun heq => absurd heq hstop⟩

/-- Settles O42: an idle block takes nothing, a receiving one what its verdict takes. -/
theorem aFrameCanArriveAtAnyTime : Obligations.AFrameCanArriveAtAnyTime := by
  intro s payload crc stop i hinv hi
  obtain ⟨f, hf⟩ := exists_encode_eq_wire s.params hi
  rcases s.idle_or_receiving with hidle | hr
  · exact ⟨_, f, hf, (exec_of_encode_eq_wire hf).trans (State.deliver_idle hidle f), rfl, rfl, 0, by simp, rfl⟩
  · exact ⟨_, f, hf, (exec_of_encode_eq_wire hf).trans (State.deliver_eq (hinv.receiving hr) f), State.received_inputs _,
      State.onlyReceiveSide_received _, _, State.received_rxTaken _, State.received_rxBuf _⟩

/-- Settles O43: nothing being taken before, the verdict carried out is that on the delivered bytes. -/
theorem receiveAgreesWithDeframe : Obligations.ReceiveAgreesWithDeframe := by
  intro s bs rest hrb hpb hs hr h0 hbuf
  have hrec := (State.receiving_of_rcnt_eq_zero hr hrb h0).withInputs rest s.rxBuf
  have hnone : { s with inputs := rest }.taken = [] := State.taken_of_rcnt_eq_zero h0
  have hstep : step s = .next ({ s with inputs := rest }.received bs) := by
    rw [step_wire hs, State.deliver_eq hrec, hbuf]
    rfl
  have hreceived {n : Nat} (ht : (deframe s.params bs).taken = some n) :
      { s with inputs := rest }.received bs =
        ({ s with inputs := rest, rxBuf := bs.drop n }.storeAll (bs.take n)).afterVerdict (deframe s.params bs) :=
    State.received_of_rcnt_eq_zero (s := { s with inputs := rest }) h0 ht
  refine ⟨_, hstep, State.received_inputs _, State.onlyReceiveSide_received (s := { s with inputs := rest }) bs, fun a ha => ?_,
    fun hv => ?_, fun st n hv => ?_, fun P n hv => ?_⟩
  · exact State.read_rb_received _ (by simpa [h0] using ha)
  · rw [State.received_of_incomplete (by rw [hnone]; exact hv)]
    have hlt : bs.length < 518 := length_lt_of_deframe_incomplete hv
    refine ⟨hr, ?_, ?_, rfl, rfl, rfl, rfl, rfl, rfl, rfl⟩
    · rw [State.toNat_rcnt_storeAll (by simp [h0]; omega)]
      simp [h0]
    · simpa [State.storeAll, h0] using Memory.readRange_writeRange hrb 0 bs
  · rw [hreceived (n := n) (by rw [hv]; rfl), hv]
    exact ⟨rfl, rfl, rfl, rfl, rfl, rfl, rfl, rfl, rfl⟩
  · rw [hreceived (n := n) (by rw [hv]; rfl), hv]
    have hpayload := State.deliverPayload_pb (s := { s with inputs := rest, rxBuf := bs.drop n }.storeAll (bs.take n)) hpb P
    exact ⟨rfl, rfl, State.deliverPayload_plen (length_payload_le hv), rfl, rfl, rfl, rfl, hpayload.1, hpayload.2, rfl⟩

/-- Settles O44: the arrivals put the bytes where the one step puts them, and each byte the step takes is one event. -/
theorem wireDeliveryIsItsByteEvents : Obligations.WireDeliveryIsItsByteEvents := by
  intro s t bs rest hs h
  rw [step_wire hs] at h
  obtain ⟨n, htaken, hrun⟩ := run_rxBytes (s.rxBuf ++ bs) (s := { s with inputs := rest, rxBuf := s.rxBuf ++ bs }) rfl h
  refine ⟨n, htaken, ?_⟩
  rw [run_arrivals]
  exact hrun

/-- Settles O45: 518 bytes are not incomplete. -/
theorem receiveEndsWithin518Bytes : Obligations.ReceiveEndsWithin518Bytes := by
  intro s bs rest hinv hs hr hlen
  have hrec := (hinv.receiving hr).withInputs rest s.rxBuf
  have hstep : step s = .next ({ s with inputs := rest }.received (s.rxBuf ++ bs)) := by
    rw [step_wire hs, State.deliver_eq hrec]
  cases ht : (deframe s.params (s.taken ++ (s.rxBuf ++ bs))).taken with
  | none =>
    have hlt := length_lt_of_deframe_incomplete (Verdict.taken_eq_none.1 ht)
    simp [Config.frameMax] at hlt
    omega
  | some n =>
    obtain ⟨r, hresp, hst⟩ := State.afterVerdict_answers ht
    exact ⟨_, r, hstep, State.afterVerdict_idle_of_taken _ ht, hresp, hst⟩

end Machine
end Sys2Proof
end

section
/-! Serializer, deserializer and framer: what each command answers while idle (41_serializer.md R111 to R119, 42_deserializer.md
R126 to R132, 43_framer.md R140 to R143). The six appends are one operation and so are the six reads; what is left is which
bytes a value is written as, and which value bytes are read as. -/

namespace Sys2Proof

/-! ## Operands and results -/

/-- The low bits of an operand, as a format cuts them (R84). -/
theorem extractLsb'_zero_eq_setWidth (arg : Word) {k : Nat} (hk : k ≤ 32) : arg.extractLsb' 0 k = arg.setWidth k :=
  (BitVec.setWidth_eq_extractLsb' hk).symm

namespace Machine

theorem extendTo32_one (a : Byte) :
    extendTo32 1 false [a] = a.setWidth 32 ∧ extendTo32 1 true [a] = a.signExtend 32 := by
  have h : BitVec.ofNat 8 (beValue [a]) = a := by simp [beValue]
  exact ⟨congrArg (BitVec.setWidth 32) h, congrArg (BitVec.signExtend 32) h⟩

theorem extendTo32_two (a b : Byte) :
    extendTo32 2 false [a, b] = (half a b).setWidth 32 ∧ extendTo32 2 true [a, b] = (half a b).signExtend 32 := by
  have h : BitVec.ofNat 16 (beValue [a, b]) = half a b := by
    rw [← BitVec.setWidth_eq (half a b), ← BitVec.ofNat_toNat, toNat_half]
    simp [beValue]
  exact ⟨congrArg (BitVec.setWidth 32) h, congrArg (BitVec.signExtend 32) h⟩

/-- Four bytes are not extended. -/
theorem extendTo32_four (signed : Bool) (a b c d : Byte) : extendTo32 4 signed [a, b, c, d] =
    BitVec.ofNat 32 (a.toNat * 16777216 + b.toNat * 65536 + c.toNat * 256 + d.toNat) := by
  have hvalue : beValue [a, b, c, d] = a.toNat * 16777216 + b.toNat * 65536 + c.toNat * 256 + d.toNat := by
    simp [beValue]
    omega
  rw [← hvalue]
  cases signed
  · exact BitVec.setWidth_eq _
  · exact BitVec.signExtend_eq _

section
variable (arg : Word)

theorem beBytes_one : beBytes 1 (arg.setWidth 8) = [arg.extractLsb' 0 8] :=
  congrArg ([·]) (BitVec.extractLsb'_setWidth_of_le (by decide))

theorem beBytes_two : beBytes 2 (arg.setWidth 16) = [arg.extractLsb' 8 8, arg.extractLsb' 0 8] :=
  congrArg₂ ([·, ·]) (BitVec.extractLsb'_setWidth_of_le (by decide)) (BitVec.extractLsb'_setWidth_of_le (by decide))

theorem beBytes_four :
    beBytes 4 arg = [arg.extractLsb' 24 8, arg.extractLsb' 16 8, arg.extractLsb' 8 8, arg.extractLsb' 0 8] := rfl

@[simp] theorem length_beBytes {k : Nat} (n : Nat) (v : BitVec k) : (beBytes n v).length = n := by simp [beBytes]

end

/-! ## Appends -/

/-- The cursor answered is the number it stands for (R111). -/
theorem setWidth_scur_add {s : State} {w : Nat} (h : s.scur.toNat + w ≤ Config.sbCap) :
    (s.scur + BitVec.ofNat 10 w).setWidth 32 = BitVec.ofNat 32 (s.scur.toNat + w) := by
  rw [← toNat_scur_add_of_le_sbCap h, BitVec.ofNat_toNat]

/-- A command that is an append of `v` appends the bytes of `v`, most significant first. -/
theorem appendsBytes_of_exec_eq {i : Instr} {k w : Nat} {v : BitVec k} {bs : List Byte}
    (hexec : ∀ s, exec i s = s.append w v) (hbs : beBytes w v = bs) : AppendsBytes i bs := by
  obtain rfl : bs.length = w := by rw [← hbs, length_beBytes]
  intro s hi hwf hfit
  have happend := State.append_of_le_sbCap (v := v) hi hfit
  rw [hbs] at happend
  refine ⟨_, (hexec s).trans happend, toNat_scur_add_of_le_sbCap hfit,
    fun k hk => Memory.read_writeRange_inside hwf _ _ k hk, fun a ha => Memory.read_writeRange_outside _ _ _ _ ha, rfl, ?_, rfl⟩
  rw [State.complete_responses, setWidth_scur_add hfit]

/-- Settles O18: the operand is cut to its low bits, whose bytes are written. -/
theorem appendsWriteBigEndianAtTheCursor : Obligations.AppendsWriteBigEndianAtTheCursor := by
  intro arg
  have h8 : arg.extractLsb' 0 8 = arg.setWidth 8 := extractLsb'_zero_eq_setWidth arg (by decide)
  have h16 : arg.extractLsb' 0 16 = arg.setWidth 16 := extractLsb'_zero_eq_setWidth arg (by decide)
  simp only [decodeCommand_commandWord]
  refine ⟨⟨?_, ?_⟩, ⟨?_, ?_⟩, ⟨rfl, ?_⟩, ⟨?_, ?_⟩, ⟨?_, ?_⟩, ⟨rfl, ?_⟩⟩
  · rw [← h8]; rfl
  · exact appendsBytes_of_exec_eq (fun _ => rfl) (beBytes_one arg)
  · rw [← h16]; rfl
  · exact appendsBytes_of_exec_eq (fun _ => rfl) (beBytes_two arg)
  · exact appendsBytes_of_exec_eq (fun _ => rfl) (beBytes_four arg)
  · rw [← h8]; rfl
  · exact appendsBytes_of_exec_eq (fun _ => rfl) (beBytes_one arg)
  · rw [← h16]; rfl
  · exact appendsBytes_of_exec_eq (fun _ => rfl) (beBytes_two arg)
  · exact appendsBytes_of_exec_eq (fun _ => rfl) (beBytes_four arg)

/-- Settles O20. -/
theorem signedAndUnsignedAppendsAgree : Obligations.SignedAndUnsignedAppendsAgree :=
  fun _ => ⟨fun _ => rfl, fun _ => rfl, fun _ => rfl⟩

/-- Settles O21. -/
theorem txclrEmptiesTheSendBuffer : Obligations.TxclrEmptiesTheSendBuffer := by
  refine ⟨fun w h => by rw [decodeCommand, h]; rfl, fun s hi => ?_⟩
  rw [exec, execTxclr, State.accept_idle hi]
  rfl

/-! ## Reads -/

/-- A command that is a read of `w` bytes reads the value of the bytes at the cursor. -/
theorem readsValue_of_exec_eq {i : Instr} {w : Nat} {signed : Bool} {value : State → Word}
    (hexec : ∀ s, exec i s = s.get w signed) (hvalue : ∀ s : State, extendTo32 w signed (s.pb.readRange s.pcur.toNat w) = value s) :
    ReadsValue i w value := by
  intro s hi hcap hfit
  refine ⟨_, (hexec s).trans (State.get_of_le_plen hi hcap hfit), toNat_pcur_add_of_le_plen hfit, rfl, ?_, rfl⟩
  rw [State.complete_responses, hvalue]

/-- Settles O22: the bytes read, and the value they stand for, by width. -/
theorem getsAnswerTheBigEndianValue : Obligations.GetsAnswerTheBigEndianValue :=
  ⟨readsValue_of_exec_eq (fun _ => rfl) fun _ => (extendTo32_one _).1,
    readsValue_of_exec_eq (fun _ => rfl) fun _ => (extendTo32_one _).2,
    readsValue_of_exec_eq (fun _ => rfl) fun _ => (extendTo32_two _ _).1,
    readsValue_of_exec_eq (fun _ => rfl) fun _ => (extendTo32_two _ _).2,
    readsValue_of_exec_eq (fun _ => rfl) fun _ => extendTo32_four _ _ _ _ _,
    readsValue_of_exec_eq (fun _ => rfl) fun _ => extendTo32_four _ _ _ _ _⟩

/-! ## Sending -/

section
variable {s : State} {pkt : List Byte}

theorem exec_send_of_frame (hi : s.rxst = .idle) (hf : frame s.params (s.sb.readRange 0 s.scur.toNat) = some pkt) :
    exec .send s = .next ((s.txWrite pkt).finishSend pkt.length (s.txAccept pkt.length)) := by
  rw [exec, execSend, State.accept_idle hi, hf]

theorem length_frame_le {p : Params} {P : List Byte} (hf : frame p P = some pkt) : pkt.length ≤ Config.frameMax := by
  obtain ⟨hmax, hlen⟩ := length_of_frame hf
  unfold Config.frameMax
  split at hlen <;> omega

end

/-- Settles O26: the payload has a packet, and `SEND` hands it over and finishes with the transport's count. -/
theorem sendFramesAndEmptiesTheSendBuffer : Obligations.SendFramesAndEmptiesTheSendBuffer := by
  refine ⟨fun w h => by rw [decodeCommand, h]; rfl, fun s hi hmax => ?_⟩
  have hf := frame_isSome (p := s.params) (P := s.sb.readRange 0 s.scur.toNat) (by rwa [Memory.length_readRange])
  exact ⟨_, _, _, _, hf, s.txAccept_le _, length_frame_le hf, fun h => if_pos h, fun h => if_neg h.ne,
    exec_send_of_frame hi hf⟩

/-- Settles O27: the prepared answer is within the packet's length, so it is not cut. -/
theorem everyAcceptedCountIsPossible : Obligations.EveryAcceptedCountIsPossible := by
  intro s pkt W hi hf hW
  have hcount : { s with txAnswers := W :: s.txAnswers }.txAccept pkt.length = W :=
    (State.txAccept_cons rfl _).trans (Nat.min_eq_left hW)
  have hle : pkt.length ≤ 518 := length_frame_le hf
  have hexec := exec_send_of_frame (s := { s with txAnswers := W :: s.txAnswers }) hi hf
  rw [hcount] at hexec
  refine ⟨_, hexec, ?_, rfl, ?_, rfl, rfl⟩
  · rw [State.finishSend_txcnt, BitVec.toNat_ofNat]
    omega
  · rw [State.finishSend_txLog, State.txWrite_txLog, hcount]

/-- Settles O28. -/
theorem sendOfMoreThan512BytesIsRefused : Obligations.SendOfMoreThan512BytesIsRefused := by
  intro s hi hlong
  rw [exec, execSend, State.accept_idle hi, frame_isNone (by rwa [Memory.length_readRange])]

end Machine
end Sys2Proof
end

section
/-! The step: acceptance and responses of commands (00_scope.md R12, 45_system.md R170, R173), what a refused command leaves,
and which side of the block a step touches (60_exceptions.md R208, 20_memory.md R53, 70_reset_and_hazards.md R227). What a
command other than `RECV` can do is said once, as `CommandEffect`; what the other events can do is `OnlyReceiveSide`. -/

namespace Sys2Proof
namespace Machine

/-! ## What a command can do -/

/-- What a command other than `RECV` can make of an idle block. -/
inductive CommandEffect (s : State) : State → Prop where
  /-- A refusal (R208 (c)). -/
  | refuse (st : Status) (hst : st = .bufferOverflow ∨ st = .shortPayload ∨ st = .range) : CommandEffect s (s.raise st)
  /-- `CRC16` of a range inside the extent (R104). -/
  | crc (d : Word) : CommandEffect s (s.complete .ok d)
  /-- An append that fits (R111). -/
  | append (bs : List Byte) (d : Word) (hpos : 0 < bs.length) (hfit : s.scur.toNat + bs.length ≤ Config.sbCap) :
      CommandEffect s ({ s with
        sb := s.sb.writeRange s.scur.toNat bs, scur := s.scur + BitVec.ofNat 10 bs.length }.complete .ok d)
  /-- `TXCLR` (R112). -/
  | clear : CommandEffect s ({ s with scur := 0 }.complete .ok 0)
  /-- A read whose bytes are there (R126). -/
  | get (w : Nat) (d : Word) (hfit : s.pcur.toNat + w ≤ s.plen.toNat) :
      CommandEffect s ({ s with pcur := s.pcur + BitVec.ofNat 10 w }.complete .ok d)
  /-- `SEND` (R142). -/
  | send (pkt : List Byte) (hf : frame s.params (s.sb.readRange 0 s.scur.toNat) = some pkt) :
      CommandEffect s ((s.txWrite pkt).finishSend pkt.length (s.txAccept pkt.length))
  /-- `RDSR` of a register (R171). -/
  | register (v : Word) : CommandEffect s (s.respond .ok v)
  /-- `RDSR` of a reserved number (R37, R171). -/
  | reserved : CommandEffect s (s.respond .range s.unspecifiedData).drawn

section
variable {s t : State}

theorem State.append_effect {k w : Nat} {v : BitVec k} (hw : 0 < w) (h : s.append w v = .next t) : CommandEffect s t := by
  obtain ⟨-, ⟨-, rfl⟩ | ⟨hfit, rfl⟩⟩ := State.append_eq_next h
  · exact .refuse _ (.inl rfl)
  · obtain ⟨bs, hbs⟩ : ∃ bs, bs = beBytes w v := ⟨_, rfl⟩
    obtain rfl : bs.length = w := by rw [hbs, length_beBytes]
    rw [← hbs]
    exact .append bs _ hw hfit

theorem State.get_effect {w : Nat} {signed : Bool} (h : s.get w signed = .next t) : CommandEffect s t := by
  obtain ⟨-, ⟨-, rfl⟩ | ⟨hfit, -, rfl⟩⟩ := State.get_eq_next h
  · exact .refuse _ (.inr (.inl rfl))
  · exact .get w _ hfit

theorem execCrc16_effect {buf : BufSel} {off len : Cursor} (h : execCrc16 buf off len s = .next t) : CommandEffect s t := by
  obtain ⟨-, ⟨-, rfl⟩ | ⟨-, -, rfl⟩⟩ := execCrc16_eq_next h
  · exact .refuse _ (.inr (.inr rfl))
  · exact .crc _

theorem execRdsr_effect {n : Byte} (h : execRdsr n s = .next t) : CommandEffect s t := by
  obtain ⟨-, ⟨v, -, rfl⟩ | ⟨-, rfl⟩⟩ := execRdsr_eq_next h
  · exact .register v
  · exact .reserved

theorem execTxclr_effect (h : execTxclr s = .next t) : CommandEffect s t := by
  obtain ⟨-, rfl⟩ := execTxclr_eq_next h
  exact .clear

theorem execSend_effect (h : execSend s = .next t) : CommandEffect s t := by
  obtain ⟨-, pkt, hf, rfl⟩ := execSend_eq_next h
  exact .send pkt hf

/-- A command with a next state is `RECV` or has one of the effects. -/
theorem exec_command_effect {i : Instr} (hc : i.isCommand = true) (hr : i ≠ .recv) (h : exec i s = .next t) :
    CommandEffect s t := by
  cases i with
  | crc16 => exact execCrc16_effect h
  | appendU8 | appendU16 | appendU32 | appendI8 | appendI16 | appendI32 => exact State.append_effect (by decide) h
  | txclr => exact execTxclr_effect h
  | getU8 | getU16 | getU32 | getI8 | getI16 | getI32 => exact State.get_effect h
  | send => exact execSend_effect h
  | recv => exact absurd rfl hr
  | rdsr => exact execRdsr_effect h
  | frameShort | frameLong => cases hc

/-- Every command asks for acceptance first (R170). -/
theorem exec_command_eq_accept {i : Instr} (hc : i.isCommand = true) (s : State) : ∃ k, exec i s = s.accept k := by
  cases i
  case frameShort | frameLong => cases hc
  all_goals exact ⟨_, rfl⟩

theorem exec_command_receiving {i : Instr} (hc : i.isCommand = true) (hr : s.rxst = .receiving) :
    exec i s = .fault .commandWhileReceiving := by
  obtain ⟨k, hk⟩ := exec_command_eq_accept hc s
  rw [hk, State.accept_receiving hr]

theorem runCommand_receiving (hr : s.rxst = .receiving) (w : Word40) : runCommand w s = .fault .commandWhileReceiving := by
  cases hd : decodeCommand w with
  | ok i => rw [runCommand_ok hd, exec_command_receiving (isCommand_of_decodeOp hd) hr]
  | error e => rw [runCommand_error hd, illegalCommand, State.accept_receiving hr]

/-- A command word with a next state is `RECV`, has one of the effects, or is illegal and raised (R172). -/
theorem runCommand_eq_next {w : Word40} (h : runCommand w s = .next t) :
    execRecv s = .next t ∨ CommandEffect s t ∨ t = s.raise .illegalCommand := by
  cases hd : decodeCommand w with
  | ok i =>
    rw [runCommand_ok hd] at h
    by_cases hr : i = .recv
    · subst hr
      exact .inl h
    · exact .inr (.inl (exec_command_effect (isCommand_of_decodeOp hd) hr h))
  | error e =>
    rw [runCommand_error hd] at h
    exact .inr (.inr (illegalCommand_eq_next h).2)

theorem CommandEffect.answers (h : CommandEffect s t) : t.rxst = s.rxst ∧ ∃ r, t.responses = s.responses ++ [r] := by
  cases h
  all_goals exact ⟨rfl, _, rfl⟩

/-! ## What the other events can do -/

theorem OnlyReceiveSide.sendSide (h : OnlyReceiveSide s t) :
    t.sb = s.sb ∧ t.scur = s.scur ∧ t.txcnt = s.txcnt ∧ t.txLog = s.txLog := by
  unfold OnlyReceiveSide at h
  rw [h]
  exact ⟨rfl, rfl, rfl, rfl⟩

theorem OnlyReceiveSide.params (h : OnlyReceiveSide s t) : t.params = s.params := by
  unfold OnlyReceiveSide at h
  rw [h]

theorem State.takeByte_onlyReceiveSide {b : Byte} (h : s.takeByte b = .next t) : OnlyReceiveSide s t := by
  obtain ⟨-, rfl⟩ := State.takeByte_eq_next h
  obtain ⟨v, hv⟩ := State.exists_checkReceived_eq_afterVerdict (s.storeReceived b)
  rw [hv]
  cases v <;> rfl

theorem State.deliver_onlyReceiveSide {bs : List Byte} (h : s.deliver bs = .next t) : OnlyReceiveSide s t := by
  have start : OnlyReceiveSide s { s with rxBuf := s.rxBuf ++ bs } := rfl
  refine takeWaiting_keeps (P := OnlyReceiveSide s) (fun u v b rest hu _ hv => ?_) _ _ _ start h
  have hside : OnlyReceiveSide { u with rxBuf := rest } v := State.takeByte_onlyReceiveSide hv
  exact hu.trans hside

theorem runInput_onlyReceiveSide {x : Input} (hc : ∀ w, x ≠ .command w) (hr : x ≠ .reset) (h : runInput x s = .next t) :
    OnlyReceiveSide s t := by
  cases x with
  | command w => exact absurd rfl (hc w)
  | arrive b => cases h; rfl
  | rxByte =>
    obtain ⟨-, b, rest, -, htake⟩ := eventRxByte_eq_next h
    have hside : OnlyReceiveSide { s with rxBuf := rest } t := State.takeByte_onlyReceiveSide htake
    exact hside
  | wire bs =>
    rw [runInput, runWire_eq] at h
    exact State.deliver_onlyReceiveSide h
  | timeout =>
    obtain ⟨-, rfl⟩ := eventTimeout_eq_next h
    rfl
  | reset => exact absurd rfl hr

end

/-! ## The obligations -/

/-- Settles O8: a code that decodes is executed, whichever of the two kinds it is. -/
theorem stepRunsTheDecodedInstruction : Obligations.StepRunsTheDecodedInstruction := by
  have run (s : State) (c : Code) (i : Instr) (hd : decode s.params c = .ok i) : runInput (inputOf c) s = exec i s := by
    cases c with
    | command w => exact runCommand_ok hd
    | wire bs => exact (runWire_eq bs s).trans (exec_of_encode_eq_wire (encode_of_decode_wire hd)).symm
  exact ⟨fun s c i rest hs hd => (step_cons hs).trans (run _ c i hd), fun s nbits w i hd => (step_cons rfl).trans (run s _ i hd)⟩

/-- Settles O10. -/
theorem noCommandIsAcceptedWhileReceiving : Obligations.NoCommandIsAcceptedWhileReceiving :=
  fun s hr => ⟨fun _ hc => exec_command_receiving hc hr,
    fun w rest hs => (step_cons hs).trans (runCommand_receiving (s := { s with inputs := rest }) hr w)⟩

/-- Settles O11: the effects leave the receive state, which acceptance asks to be idle, and each answers once. -/
theorem everyCommandButRecvAnswersOnce : Obligations.EveryCommandButRecvAnswersOnce := by
  intro s t i hc h
  refine ⟨fun hr => ?_, fun hr => ?_⟩
  · obtain ⟨hrxst, hresp⟩ := (exec_command_effect hc hr h).answers
    obtain ⟨k, hk⟩ := exec_command_eq_accept hc s
    exact ⟨hrxst.trans (State.accept_eq_next (hk.symm.trans h)).1, hresp⟩
  · subst hr
    obtain ⟨-, rfl⟩ := execRecv_eq_next h
    exact ⟨rfl, rfl, rfl⟩

/-- Settles O48: only a refusal and `RDSR` of a reserved number answer with one of the three. -/
theorem refusedCommandHasNoEffect : Obligations.RefusedCommandHasNoEffect := by
  intro s t i r hc h hresp hst
  -- a response with another status is not `r`
  have other {r' : Response} (h' : t.responses = s.responses ++ [r'])
      (hne : r'.status ≠ .bufferOverflow ∧ r'.status ≠ .shortPayload ∧ r'.status ≠ .range) : False := by
    obtain rfl : r' = r := by simpa using h'.symm.trans hresp
    obtain ⟨h1, h2, h3⟩ := hne
    rcases hst with hst | hst | hst
    · exact h1 hst
    · exact h2 hst
    · exact h3 hst
  by_cases hr : i = .recv
  · subst hr
    obtain ⟨-, rfl⟩ := execRecv_eq_next h
    exact absurd (show s.responses = s.responses ++ [r] from hresp) (by simp)
  cases exec_command_effect hc hr h with
  | refuse | reserved => rfl
  | crc | append | clear | get | register => exact (other rfl ⟨by simp, by simp, by simp⟩).elim
  | send => exact (other rfl (by dsimp only; split <;> simp)).elim

/-- Settles O49: the effects write neither `PB` nor `RB`, and `SB` only with the cursor moved up; the other events are those
of the receive side. -/
theorem sendAndReceiveSidesAreIndependent : Obligations.SendAndReceiveSidesAreIndependent := by
  refine ⟨fun s t i hc h => ?_, fun s t x rest hs h hcmd hreset => ?_⟩
  · by_cases hr : i = .recv
    · subst hr
      obtain ⟨-, rfl⟩ := execRecv_eq_next h
      exact ⟨rfl, rfl, fun hne => absurd rfl hne, fun _ => rfl⟩
    cases exec_command_effect hc hr h with
    | append bs d hpos hfit =>
      refine ⟨rfl, rfl, fun _ => ⟨rfl, rfl⟩, fun hle => ?_⟩
      have hcur := toNat_scur_add_of_le_sbCap hfit
      simp only [State.complete_scur] at hle
      omega
    | _ => exact ⟨rfl, rfl, fun _ => ⟨rfl, rfl⟩, fun _ => rfl⟩
  · rw [step_cons hs] at h
    exact (runInput_onlyReceiveSide hcmd hreset h).sendSide

/-- Settles O50. -/
theorem parametersNeverChange : Obligations.ParametersNeverChange := by
  intro s t h
  obtain ⟨x, rest, -, h⟩ := step_eq_next h
  by_cases hreset : x = .reset
  · subst hreset
    cases h
    rfl
  by_cases hcmd : ∃ w, x = .command w
  · obtain ⟨w, rfl⟩ := hcmd
    rcases runCommand_eq_next h with hrecv | heff | rfl
    · obtain ⟨-, rfl⟩ := execRecv_eq_next hrecv
      rfl
    · cases heff
      all_goals rfl
    · rfl
  · exact (runInput_onlyReceiveSide (fun w hw => hcmd ⟨w, hw⟩) hreset h).params

/-! ## Responses -/

/-- The codes number the statuses in the order of the table. -/
theorem ofNat_code (st : Status) : Status.ofNat st.code.toNat = st := by cases st <;> rfl

/-- Settles O7: the code numbers its status, and a response word is laid out as a command word is. -/
theorem statusCodesAndResponseWord : Obligations.StatusCodesAndResponseWord := by
  have hinj (a b : Status) (h : a.code = b.code) : a = b := by rw [← ofNat_code a, h, ofNat_code]
  exact ⟨hinj, rfl, rfl, rfl, rfl, rfl, rfl, rfl, rfl, rfl, rfl, rfl,
    fun r => ⟨opOf_commandWord r.status.code r.data, argOf_commandWord r.status.code r.data⟩⟩

end Machine
end Sys2Proof
end

section
/-! The invariants (10_state.md R38, R39): they hold at reset, every step keeps them, and in a state that has them the block
stops only where the environment asks for what has no step (60_exceptions.md R209, R210). -/

namespace Sys2Proof
namespace Machine

/-- Settles O53: nothing is stored and every cursor is 0. -/
theorem invHoldsAtReset : Obligations.InvHoldsAtReset where
  scur_le := by decide
  pcur_le := by decide
  plen_le := by decide
  rcnt_le := by decide
  idle_rcnt := fun _ => rfl
  receiving_empty := fun _ => ⟨rfl, rfl⟩
  txcnt_le := by decide
  status_code := by decide
  position := fun hr => by cases hr
  sb_wf := Memory.wf_nil
  pb_wf := Memory.wf_nil
  rb_wf := Memory.wf_nil
  sb_within := by simp [State.reset]
  pb_within := by simp [State.reset]
  rb_within := by simp [State.reset]
  params_wf := by decide

section
variable {s t : State}

/-! ## What keeps the invariants -/

theorem BlockInv.complete (h : BlockInv s) (st : Status) (d : Word) : BlockInv (s.complete st d) :=
  { h with status_code := Status.code_le st }

theorem BlockInv.respond (h : BlockInv s) (st : Status) (d : Word) : BlockInv (s.respond st d) := { h with }

theorem BlockInv.drawn (h : BlockInv s) : BlockInv s.drawn := { h with }

theorem BlockInv.raise (h : BlockInv s) (st : Status) : BlockInv (s.raise st) := (h.complete st _).drawn

/-- R38 says nothing of the script and the transport. -/
theorem BlockInv.withEnv (h : BlockInv s) (xs : List Input) (w : List Byte) : BlockInv { s with inputs := xs, rxBuf := w } :=
  { h with }

theorem BlockInv.failReceive (h : BlockInv s) (st : Status) : BlockInv (s.failReceive st) :=
  { h with
    pcur_le := Nat.le_refl 0
    plen_le := Nat.zero_le _
    rcnt_le := Nat.zero_le _
    idle_rcnt := fun _ => rfl
    receiving_empty := fun _ => ⟨rfl, rfl⟩
    status_code := Status.code_le st
    position := fun hr => by cases hr }

theorem BlockInv.deliverPayload (h : BlockInv s) {P : List Byte} (hP : P.length ≤ Config.maxPayload) :
    BlockInv (s.deliverPayload P) :=
  { h with
    pcur_le := Nat.zero_le _
    plen_le := (State.deliverPayload_plen hP).trans_le hP
    rcnt_le := Nat.zero_le _
    idle_rcnt := fun _ => rfl
    receiving_empty := fun hr => by cases hr
    status_code := Status.code_le .ok
    position := fun hr => by cases hr
    pb_wf := Memory.wf_writeRange h.pb_wf 0 P
    pb_within := Memory.within_writeRange h.pb_within 0 P (by rw [Nat.zero_add]; exact hP) }

/-- While idle R38 says nothing of what `RB` holds, but for its form. -/
theorem BlockInv.withReceiveBuffer (h : BlockInv s) (hi : s.rxst = .idle) {m : Memory} (hwf : m.wf)
    (hwithin : m.within Config.rbCap) (bs : List Byte) : BlockInv { s with rb := m, rxTaken := bs } :=
  { h with
    position := fun hr => by cases hi.symm.trans hr
    rb_wf := hwf
    rb_within := hwithin }

theorem BlockInv.recv (h : BlockInv s) : BlockInv { s with plen := 0, pcur := 0, rcnt := 0, rxst := .receiving } :=
  { h with
    pcur_le := Nat.le_refl 0
    plen_le := Nat.zero_le _
    rcnt_le := Nat.zero_le _
    idle_rcnt := fun _ => rfl
    receiving_empty := fun _ => ⟨rfl, rfl⟩
    position := fun _ h1 => absurd h1 (by simp) }

/-- The effects of the commands: cursors stay in their bounds, and an append writes below the capacity. -/
theorem BlockInv.commandEffect (h : BlockInv s) (heff : CommandEffect s t) : BlockInv t := by
  cases heff with
  | refuse st => exact h.raise st
  | crc d => exact h.complete .ok d
  | append bs d hpos hfit =>
    have hinv : BlockInv { s with
        sb := s.sb.writeRange s.scur.toNat bs, scur := s.scur + BitVec.ofNat 10 bs.length } :=
      { h with
        scur_le := (toNat_scur_add_of_le_sbCap hfit).trans_le hfit
        sb_wf := Memory.wf_writeRange h.sb_wf _ bs
        sb_within := Memory.within_writeRange h.sb_within _ bs hfit }
    exact hinv.complete .ok d
  | clear =>
    have hinv : BlockInv { s with scur := 0 } := { h with scur_le := Nat.zero_le _ }
    exact hinv.complete .ok 0
  | get w d hfit =>
    have hinv : BlockInv { s with pcur := s.pcur + BitVec.ofNat 10 w } :=
      { h with
        pcur_le := (toNat_pcur_add_of_le_plen hfit).trans_le hfit
        receiving_empty := fun hr => by
          obtain ⟨hplen, hpcur⟩ := h.receiving_empty hr
          have h0 : w = 0 := by simpa [hplen, hpcur] using hfit
          exact ⟨hplen, by simp [hpcur, h0]⟩ }
    exact hinv.complete .ok d
  | send pkt hf =>
    have hcount : (BitVec.ofNat 10 (s.txAccept pkt.length)).toNat ≤ Config.frameMax := by
      rw [BitVec.toNat_ofNat]
      exact (Nat.mod_le _ _).trans ((s.txAccept_le _).trans (length_frame_le hf))
    have hinv : BlockInv { s.txWrite pkt with txcnt := BitVec.ofNat 10 (s.txAccept pkt.length), scur := 0 } :=
      { h with
        scur_le := Nat.zero_le _
        txcnt_le := hcount }
    exact hinv.complete _ _
  | register v => exact h.respond .ok v
  | reserved => exact (h.respond .range _).drawn

/-- A byte taken in a state of R38: an incomplete verdict is R38 (h) again, any other ends the receive. -/
theorem BlockInv.takeByte {b : Byte} (h : BlockInv s) (hr : s.rxst = .receiving) (htake : s.takeByte b = .next t) :
    BlockInv t := by
  have hrec := h.receiving hr
  have hlt : s.rcnt.toNat < 518 := State.rcnt_lt_of_receiving hrec
  have hcnt : (s.storeReceived b).rcnt.toNat = s.rcnt.toNat + 1 :=
    State.toNat_rcnt_storeAll (bs := [b]) (show s.rcnt.toNat + 1 < 1024 by omega)
  have hwf := Memory.wf_write h.rb_wf s.rcnt.toNat b
  have hwithin : (s.rb.write s.rcnt.toNat b).within Config.rbCap := Memory.within_write h.rb_within hlt
  rw [State.takeByte_eq hrec] at htake
  cases htake
  cases hv : deframe s.params (s.taken ++ [b]) with
  | incomplete =>
    exact { h with
      rcnt_le := hcnt.trans_le hlt
      idle_rcnt := fun hi => by cases hr.symm.trans hi
      position := fun _ => State.deframe_taken_eq_incomplete_iff.1 (hrec.storeReceived hv).incomplete
      rb_wf := hwf
      rb_within := hwithin }
  | fail st n => exact (h.failReceive st).withReceiveBuffer rfl hwf hwithin _
  | ok P n => exact (h.deliverPayload (length_payload_le hv)).withReceiveBuffer rfl hwf hwithin _

theorem BlockInv.deliver {bs : List Byte} (h : BlockInv s) (hd : s.deliver bs = .next t) : BlockInv t := by
  refine takeWaiting_keeps (P := BlockInv) (fun u v b rest hu hr hv => ?_) _ _ _ (h.withEnv s.inputs _) hd
  exact (hu.withEnv u.inputs rest).takeByte hr hv

theorem BlockInv.eventReset (h : BlockInv s) (hreset : eventReset s = .next t) : BlockInv t := by
  cases hreset
  exact { invHoldsAtReset with
    position := fun hr => by cases hr
    params_wf := h.params_wf }

theorem BlockInv.runInput {x : Input} (h : BlockInv s) (hrun : runInput x s = .next t) : BlockInv t := by
  cases x with
  | command w =>
    rcases runCommand_eq_next hrun with hrecv | heff | rfl
    · obtain ⟨-, rfl⟩ := execRecv_eq_next hrecv
      exact h.recv
    · exact h.commandEffect heff
    · exact h.raise .illegalCommand
  | arrive b =>
    cases hrun
    exact h.withEnv s.inputs _
  | rxByte =>
    obtain ⟨hr, b, rest, -, htake⟩ := eventRxByte_eq_next hrun
    exact (h.withEnv s.inputs rest).takeByte hr htake
  | wire bs =>
    rw [Machine.runInput, runWire_eq] at hrun
    exact h.deliver hrun
  | timeout =>
    obtain ⟨-, rfl⟩ := eventTimeout_eq_next hrun
    exact h.failReceive .frameTimeout
  | reset => exact h.eventReset hrun

/-! ## Progress -/

/-- While idle every command has a next state: the accesses lie inside the extents, and `SEND` has a packet. -/
theorem exec_command_total {i : Instr} (h : BlockInv s) (hi : s.rxst = .idle) (hc : i.isCommand = true) :
    ∃ t, exec i s = .next t := by
  have append {k : Nat} (w : Nat) (v : BitVec k) : ∃ t, s.append w v = .next t := by
    rcases Nat.lt_or_ge Config.sbCap (s.scur.toNat + w) with hover | hfit
    · exact ⟨_, State.append_of_sbCap_lt hi hover⟩
    · exact ⟨_, State.append_of_le_sbCap hi hfit⟩
  have get (w : Nat) (signed : Bool) : ∃ t, s.get w signed = .next t := by
    rcases Nat.lt_or_ge s.plen.toNat (s.pcur.toNat + w) with hshort | hfit
    · exact ⟨_, State.get_of_plen_lt hi hshort⟩
    · exact ⟨_, State.get_of_le_plen hi h.plen_le hfit⟩
  cases i with
  | crc16 buf off len =>
    have hcap : s.extent buf ≤ (spaceOf buf).cap := by
      cases buf
      · exact h.scur_le
      · exact h.plen_le
    rcases Nat.lt_or_ge (s.extent buf) (off.toNat + len.toNat) with hout | hin
    · exact ⟨_, execCrc16_of_extent_lt hi hout⟩
    · exact ⟨_, execCrc16_of_le_extent hi hcap hin⟩
  | appendU8 | appendU16 | appendU32 | appendI8 | appendI16 | appendI32 => exact append _ _
  | getU8 | getU16 | getU32 | getI8 | getI16 | getI32 => exact get _ _
  | txclr => exact ⟨_, State.accept_idle hi _⟩
  | send => exact ⟨_, exec_send_of_frame hi (frame_isSome (by rw [Memory.length_readRange]; exact h.scur_le))⟩
  | recv => exact ⟨_, State.accept_idle hi _⟩
  | rdsr n =>
    cases hn : s.readSr n with
    | some v => exact ⟨_, exec_rdsr_of_readSr_eq_some hi hn⟩
    | none => exact ⟨_, exec_rdsr_of_readSr_eq_none hi hn⟩
  | frameShort | frameLong => cases hc

theorem runCommand_total (h : BlockInv s) (hi : s.rxst = .idle) (w : Word40) : ∃ t, runCommand w s = .next t := by
  cases hd : decodeCommand w with
  | ok i =>
    rw [runCommand_ok hd]
    exact exec_command_total h hi (isCommand_of_decodeOp hd)
  | error e =>
    rw [runCommand_error hd]
    exact ⟨_, illegalCommand_of_idle hi⟩

theorem State.deliver_total (h : BlockInv s) (bs : List Byte) : ∃ t, s.deliver bs = .next t := by
  rcases s.idle_or_receiving with hi | hr
  · exact ⟨_, State.deliver_idle hi bs⟩
  · exact ⟨_, State.deliver_eq (h.receiving hr) bs⟩

end

/-! ## The obligations -/

/-- Settles O51. -/
theorem resetState : Obligations.ResetState := by
  unfold Obligations.ResetState
  decide

/-- Settles O54. -/
theorem everyStepKeepsInv : Obligations.EveryStepKeepsInv := by
  intro s t h hstep
  obtain ⟨x, rest, -, hrun⟩ := step_eq_next hstep
  exact (h.withEnv rest s.rxBuf).runInput hrun

/-- Settles O55: input by input, the stop is one that the environment asked for. -/
theorem onlyTheEnvironmentCanStopTheBlock : Obligations.OnlyTheEnvironmentCanStopTheBlock := by
  intro s h
  cases hs : s.inputs with
  | nil => exact .inr ⟨.noInput, by rw [step, hs], .inl ⟨hs, rfl⟩⟩
  | cons x rest =>
    have hinv : BlockInv { s with inputs := rest } := h.withEnv rest s.rxBuf
    rw [step_cons hs]
    cases x with
    | command w =>
      rcases s.idle_or_receiving with hi | hr
      · exact .inl (runCommand_total hinv hi w)
      · exact .inr ⟨_, runCommand_receiving (s := { s with inputs := rest }) hr w, .inr (.inl ⟨w, rest, hs, hr, rfl⟩)⟩
    | arrive b => exact .inl ⟨_, rfl⟩
    | rxByte =>
      rcases s.idle_or_receiving with hi | hr
      · exact .inr ⟨_, eventRxByte_idle (s := { s with inputs := rest }) hi, .inr (.inr (.inl ⟨rest, hs, .inl hi, rfl⟩))⟩
      · cases hb : s.rxBuf with
        | nil =>
          exact .inr ⟨_, eventRxByte_nil rfl, .inr (.inr (.inl ⟨rest, hs, .inr hb, rfl⟩))⟩
        | cons b bs =>
          have hstep := step_rxByte_eq (h.receiving hr) hs hb
          rw [step_cons hs] at hstep
          exact .inl ⟨_, hb ▸ hstep⟩
    | wire bs =>
      obtain ⟨t, ht⟩ := State.deliver_total hinv bs
      exact .inl ⟨t, (runWire_eq bs _).trans ht⟩
    | timeout =>
      rcases s.idle_or_receiving with hi | hr
      · exact .inr ⟨_, eventTimeout_idle (s := { s with inputs := rest }) hi, .inr (.inr (.inr ⟨rest, hs, hi, rfl⟩))⟩
      · exact .inl ⟨_, (step_cons hs).symm.trans (step_timeout hs hr)⟩
    | reset => exact .inl ⟨_, rfl⟩

end Machine
end Sys2Proof
end

section
/-! Bytes outside the valid extents (10_state.md R24): two states of R38 that differ only there are told apart by no step.
Everything that is written from the buffers is read inside the extents, and what is written goes to the same indices. -/

namespace Sys2Proof
namespace Machine

/-- The state with other contents of its three byte spaces. -/
def State.withBuffers (s : State) (sb pb rb : Memory) : State := { s with sb := sb, pb := pb, rb := rb }

theorem SameReadable.eq_withBuffers {s t : State} (h : SameReadable s t) : t = s.withBuffers t.sb t.pb t.rb := by
  have hrest := h.rest
  obtain ⟨⟩ := s
  obtain ⟨⟩ := t
  simp only [State.withoutBuffers, State.mk.injEq] at hrest
  simp [State.withBuffers, hrest]

/-- Memories that agree below `a` agree below the end of a range written at `a`. -/
theorem Memory.read_writeRange_congr {m m' : Memory} (hm : m.wf) (hm' : m'.wf) {a : Nat} (bs : List Byte)
    (h : ∀ i, i < a → m.read i = m'.read i) {i : Nat} (hi : i < a + bs.length) :
    (m.writeRange a bs).read i = (m'.writeRange a bs).read i := by
  rcases Nat.lt_or_ge i a with hlt | hge
  · rw [Memory.read_writeRange_outside _ _ _ _ (.inl hlt), Memory.read_writeRange_outside _ _ _ _ (.inl hlt), h i hlt]
  · obtain ⟨k, rfl⟩ : ∃ k, i = a + k := ⟨i - a, by omega⟩
    rw [Memory.read_writeRange_inside hm _ _ _ (by omega), Memory.read_writeRange_inside hm' _ _ _ (by omega)]

/-- A cursor moved up by `n` stands no further than `n` above where it stood. -/
theorem toNat_add_ofNat_le (c : Cursor) (n : Nat) : (c + BitVec.ofNat 10 n).toNat ≤ c.toNat + n := by
  rw [BitVec.toNat_add, BitVec.toNat_ofNat, Nat.add_mod_mod]
  exact Nat.mod_le _ _

section
variable {s : State} {sb pb rb : Memory}

/-! ## Commands -/

theorem SameReadable.append {k : Nat} (h : SameReadable s (s.withBuffers sb pb rb)) (hi : s.rxst = .idle) (hs : s.sb.wf)
    (ht : sb.wf) (w : Nat) (v : BitVec k) : SameOutcome (s.append w v) ((s.withBuffers sb pb rb).append w v) := by
  rcases Nat.lt_or_ge Config.sbCap (s.scur.toNat + w) with hover | hfit
  · rw [State.append_of_sbCap_lt hi hover, State.append_of_sbCap_lt (s := s.withBuffers sb pb rb) hi hover]
    exact ⟨rfl, h.sb, h.pb, h.rb⟩
  · rw [State.append_of_le_sbCap hi hfit, State.append_of_le_sbCap (s := s.withBuffers sb pb rb) hi hfit]
    refine ⟨rfl, fun a ha => Memory.read_writeRange_congr hs ht (beBytes w v) h.sb ?_, h.pb, h.rb⟩
    rw [length_beBytes]
    exact ha.trans_le (toNat_add_ofNat_le s.scur w)

theorem SameReadable.get (h : SameReadable s (s.withBuffers sb pb rb)) (hi : s.rxst = .idle)
    (hs : s.plen.toNat ≤ Config.pbCap) (w : Nat) (signed : Bool) :
    SameOutcome (s.get w signed) ((s.withBuffers sb pb rb).get w signed) := by
  rcases Nat.lt_or_ge s.plen.toNat (s.pcur.toNat + w) with hshort | hfit
  · rw [State.get_of_plen_lt hi hshort, State.get_of_plen_lt (s := s.withBuffers sb pb rb) hi hshort]
    exact ⟨rfl, h.sb, h.pb, h.rb⟩
  · have hread : s.pb.readRange s.pcur.toNat w = pb.readRange s.pcur.toNat w :=
      Memory.readRange_congr fun i _ hlt => h.pb i (hlt.trans_le hfit)
    rw [State.get_of_le_plen hi hs hfit, State.get_of_le_plen (s := s.withBuffers sb pb rb) hi hs hfit, hread]
    exact ⟨rfl, h.sb, h.pb, h.rb⟩

theorem SameReadable.execCrc16 (h : SameReadable s (s.withBuffers sb pb rb)) (hi : s.rxst = .idle)
    (hsb : s.scur.toNat ≤ Config.sbCap) (hpb : s.plen.toNat ≤ Config.pbCap) (buf : BufSel) (off len : Cursor) :
    SameOutcome (execCrc16 buf off len s) (execCrc16 buf off len (s.withBuffers sb pb rb)) := by
  have hcap : s.extent buf ≤ (spaceOf buf).cap := by cases buf <;> assumption
  have hextent : (s.withBuffers sb pb rb).extent buf = s.extent buf := by cases buf <;> rfl
  rcases Nat.lt_or_ge (s.extent buf) (off.toNat + len.toNat) with hout | hin
  · rw [execCrc16_of_extent_lt hi hout, execCrc16_of_extent_lt (s := s.withBuffers sb pb rb) hi (by rwa [hextent])]
    exact ⟨rfl, h.sb, h.pb, h.rb⟩
  · have hread : (s.buffer buf).readRange off.toNat len.toNat =
        ((s.withBuffers sb pb rb).buffer buf).readRange off.toNat len.toNat := by
      refine Memory.readRange_congr fun i _ hlt => ?_
      cases buf
      · exact h.sb i (hlt.trans_le hin)
      · exact h.pb i (hlt.trans_le hin)
    rw [execCrc16_of_le_extent hi hcap hin,
      execCrc16_of_le_extent (s := s.withBuffers sb pb rb) hi (by rwa [hextent]) (by rwa [hextent]), hread]
    exact ⟨rfl, h.sb, h.pb, h.rb⟩

theorem SameReadable.execSend (h : SameReadable s (s.withBuffers sb pb rb)) (hi : s.rxst = .idle)
    (hs : s.scur.toNat ≤ Config.sbCap) : SameOutcome (exec .send s) (exec .send (s.withBuffers sb pb rb)) := by
  have hread : s.sb.readRange 0 s.scur.toNat = sb.readRange 0 s.scur.toNat :=
    Memory.readRange_congr fun i _ hlt => h.sb i (by rwa [Nat.zero_add] at hlt)
  obtain ⟨pkt, hf⟩ : ∃ pkt, frame s.params (s.sb.readRange 0 s.scur.toNat) = some pkt :=
    ⟨_, frame_isSome (by rwa [Memory.length_readRange])⟩
  rw [exec_send_of_frame hi hf, exec_send_of_frame (s := s.withBuffers sb pb rb) hi (hread ▸ hf)]
  exact ⟨rfl, fun a ha => absurd ha (Nat.not_lt_zero a), h.pb, h.rb⟩

/-- What an accepted command does alike to both states has the same outcome. -/
theorem SameReadable.accept {k k' : Host.Outcome State Fault Refusal} (hk : SameOutcome k k') :
    SameOutcome (s.accept k) ((s.withBuffers sb pb rb).accept k') := by
  rcases s.idle_or_receiving with hi | hr
  · rw [State.accept_idle hi, State.accept_idle (s := s.withBuffers sb pb rb) hi]
    exact hk
  · rw [State.accept_receiving hr, State.accept_receiving (s := s.withBuffers sb pb rb) hr]
    rfl

theorem SameReadable.exec_command (h : SameReadable s (s.withBuffers sb pb rb)) (hs : BlockInv s)
    (ht : BlockInv (s.withBuffers sb pb rb)) {i : Instr} (hc : i.isCommand = true) :
    SameOutcome (exec i s) (exec i (s.withBuffers sb pb rb)) := by
  rcases s.idle_or_receiving with hi | hr
  case inr =>
    rw [exec_command_receiving hc hr, exec_command_receiving hc (s := s.withBuffers sb pb rb) hr]
    rfl
  cases i with
  | crc16 buf off len => exact h.execCrc16 hi hs.scur_le hs.plen_le buf off len
  | appendU8 | appendU16 | appendU32 | appendI8 | appendI16 | appendI32 => exact h.append hi hs.sb_wf ht.sb_wf _ _
  | getU8 | getU16 | getU32 | getI8 | getI16 | getI32 => exact h.get hi hs.plen_le _ _
  | txclr => exact SameReadable.accept ⟨rfl, fun a ha => absurd ha (Nat.not_lt_zero a), h.pb, h.rb⟩
  | send => exact h.execSend hi hs.scur_le
  | recv =>
    exact SameReadable.accept
      ⟨rfl, h.sb, fun a ha => absurd ha (Nat.not_lt_zero a), fun a ha => absurd ha (Nat.not_lt_zero a)⟩
  | rdsr n =>
    have hread : (s.withBuffers sb pb rb).readSr n = s.readSr n := rfl
    refine SameReadable.accept ?_
    rw [hread]
    cases s.readSr n with
    | some v => exact ⟨rfl, h.sb, h.pb, h.rb⟩
    | none => exact ⟨rfl, h.sb, h.pb, h.rb⟩
  | frameShort | frameLong => cases hc

theorem SameReadable.runCommand (h : SameReadable s (s.withBuffers sb pb rb)) (hs : BlockInv s)
    (ht : BlockInv (s.withBuffers sb pb rb)) (w : Word40) :
    SameOutcome (runCommand w s) (runCommand w (s.withBuffers sb pb rb)) := by
  cases hd : decodeCommand w with
  | ok i =>
    rw [runCommand_ok hd, runCommand_ok hd]
    exact h.exec_command hs ht (isCommand_of_decodeOp hd)
  | error e =>
    rw [runCommand_error hd, runCommand_error hd]
    exact SameReadable.accept ⟨rfl, h.sb, h.pb, h.rb⟩

/-! ## Receiving -/

theorem SameReadable.taken_eq (h : SameReadable s (s.withBuffers sb pb rb)) : (s.withBuffers sb pb rb).taken = s.taken :=
  Memory.readRange_congr fun i _ hlt => (h.rb i (by rwa [Nat.zero_add] at hlt)).symm

theorem SameReadable.storeAll (h : SameReadable s (s.withBuffers sb pb rb)) (hs : s.rb.wf) (ht : rb.wf) (bs : List Byte) :
    SameReadable (s.storeAll bs) ((s.withBuffers sb pb rb).storeAll bs) :=
  ⟨rfl, h.sb, h.pb, fun _ ha => Memory.read_writeRange_congr hs ht bs h.rb (ha.trans_le (toNat_add_ofNat_le s.rcnt bs.length))⟩

/-- Two states that a verdict finds alike it leaves alike: the payload it delivers is its own. -/
theorem SameReadable.afterVerdict (h : SameReadable s (s.withBuffers sb pb rb)) (hs : s.pb.wf) (ht : pb.wf) (v : Verdict) :
    SameReadable (s.afterVerdict v) ((s.withBuffers sb pb rb).afterVerdict v) := by
  cases v with
  | incomplete => exact h
  | fail st n => exact ⟨rfl, h.sb, fun a ha => absurd ha (Nat.not_lt_zero a), fun a ha => absurd ha (Nat.not_lt_zero a)⟩
  | ok P n =>
    refine ⟨rfl, h.sb, fun a ha => ?_, fun a ha => absurd ha (Nat.not_lt_zero a)⟩
    refine Memory.read_writeRange_congr hs ht P (fun i hi => absurd hi (Nat.not_lt_zero i)) ?_
    have hplen : (BitVec.ofNat 10 P.length).toNat ≤ P.length := by
      rw [BitVec.toNat_ofNat]
      exact Nat.mod_le _ _
    rw [Nat.zero_add]
    exact (show a < (BitVec.ofNat 10 P.length).toNat from ha).trans_le hplen

theorem SameReadable.withEnv (h : SameReadable s (s.withBuffers sb pb rb)) (xs : List Input) (w : List Byte) :
    SameReadable { s with inputs := xs, rxBuf := w } ({ s with inputs := xs, rxBuf := w }.withBuffers sb pb rb) :=
  ⟨rfl, h.sb, h.pb, h.rb⟩

/-- Bytes stored and a verdict carried out, the rest `w` waiting, leave alike what they found alike. -/
theorem SameReadable.stored (h : SameReadable s (s.withBuffers sb pb rb)) (hs : BlockInv s)
    (ht : BlockInv (s.withBuffers sb pb rb)) (w bs : List Byte) (v : Verdict) :
    SameReadable (({ s with rxBuf := w }.storeAll bs).afterVerdict v)
      (({ s with rxBuf := w }.withBuffers sb pb rb).storeAll bs |>.afterVerdict v) := by
  have hstore := (h.withEnv s.inputs w).storeAll hs.rb_wf ht.rb_wf bs
  exact SameReadable.afterVerdict (s := { s with rxBuf := w }.storeAll bs) hstore hs.pb_wf ht.pb_wf v

theorem SameReadable.eventRxByte (h : SameReadable s (s.withBuffers sb pb rb)) (hs : BlockInv s)
    (ht : BlockInv (s.withBuffers sb pb rb)) : SameOutcome (eventRxByte s) (eventRxByte (s.withBuffers sb pb rb)) := by
  rcases s.idle_or_receiving with hi | hr
  · rw [eventRxByte_idle hi, eventRxByte_idle (s := s.withBuffers sb pb rb) hi]
    rfl
  cases hb : s.rxBuf with
  | nil =>
    rw [eventRxByte_nil hb, eventRxByte_nil (s := s.withBuffers sb pb rb) hb]
    rfl
  | cons b bs =>
    rw [eventRxByte_eq (hs.receiving hr) hb, eventRxByte_eq (ht.receiving hr) hb, h.taken_eq]
    exact h.stored hs ht bs [b] _

theorem SameReadable.deliver (h : SameReadable s (s.withBuffers sb pb rb)) (hs : BlockInv s)
    (ht : BlockInv (s.withBuffers sb pb rb)) (bs : List Byte) :
    SameOutcome (s.deliver bs) ((s.withBuffers sb pb rb).deliver bs) := by
  rcases s.idle_or_receiving with hi | hr
  · rw [State.deliver_idle hi, State.deliver_idle (s := s.withBuffers sb pb rb) hi]
    exact h.withEnv s.inputs _
  · rw [State.deliver_eq (hs.receiving hr), State.deliver_eq (ht.receiving hr), State.received, State.received, h.taken_eq]
    exact h.stored hs ht _ _ _

/-! ## One input -/

theorem SameReadable.runInput (h : SameReadable s (s.withBuffers sb pb rb)) (hs : BlockInv s)
    (ht : BlockInv (s.withBuffers sb pb rb)) (x : Input) :
    SameOutcome (runInput x s) (runInput x (s.withBuffers sb pb rb)) := by
  cases x with
  | command w => exact h.runCommand hs ht w
  | arrive b => exact h.withEnv s.inputs _
  | rxByte => exact h.eventRxByte hs ht
  | wire bs =>
    rw [Machine.runInput, Machine.runInput, runWire_eq, runWire_eq]
    exact h.deliver hs ht bs
  | timeout =>
    rcases s.idle_or_receiving with hi | hr
    · rw [Machine.runInput, Machine.runInput, eventTimeout_idle hi, eventTimeout_idle (s := s.withBuffers sb pb rb) hi]
      rfl
    · have timeout {u : State} (hr : u.rxst = .receiving) :
          Machine.runInput .timeout u = .next (u.afterVerdict (.fail .frameTimeout 0)) := by
        simp only [Machine.runInput, eventTimeout, hr]
        rfl
      rw [timeout hr, timeout (u := s.withBuffers sb pb rb) hr]
      exact h.afterVerdict hs.pb_wf ht.pb_wf _
  | reset => exact ⟨rfl, fun _ _ => rfl, fun _ _ => rfl, fun _ _ => rfl⟩

end

/-- Settles O56: the second state is the first with other buffer contents. -/
theorem unreadableBytesNeverMatter : Obligations.UnreadableBytesNeverMatter := by
  intro s t hs ht h
  have heq := h.eq_withBuffers
  rw [heq] at h ht ⊢
  cases hx : s.inputs with
  | nil =>
    rw [step, step, State.withBuffers, hx]
    rfl
  | cons x rest =>
    rw [step_cons hx, step_cons (s := s.withBuffers t.sb t.pb t.rb) hx]
    exact (h.withEnv rest s.rxBuf).runInput (hs.withEnv rest s.rxBuf) (ht.withEnv rest s.rxBuf) x

end Machine
end Sys2Proof
end

section
/-! Scaled pseudo-operations of the host (46_scaled_pseudo.md R181 to R185): rounding takes one of the two neighbouring
integers, the nearer one; and an integer in the range of its type is read back from the word that carries it. -/

namespace Sys2Proof
namespace Machine

/-! ## Rounding -/

theorem RoundTie.pick_eq (tie : RoundTie) (k : Int) : tie.pick k = k ∨ tie.pick k = k + 1 := by
  cases tie with
  | awayFromZero => exact (ite_eq_or_eq (0 ≤ k) (k + 1) k).symm
  | toEven => exact ite_eq_or_eq (k % 2 = 0) k (k + 1)
  | towardZero => exact ite_eq_or_eq (0 ≤ k) k (k + 1)
  | up => exact .inr rfl

/-- The neighbour below when it is at most one half away, the one above when it is (R182). -/
theorem roundNearest_cases (tie : RoundTie) (y : ℚ) :
    (roundNearest tie y = ⌊y⌋ ∧ y - ⌊y⌋ ≤ 1 / 2) ∨ (roundNearest tie y = ⌊y⌋ + 1 ∧ 1 / 2 ≤ y - ⌊y⌋) := by
  unfold roundNearest
  dsimp only
  split
  · exact .inl ⟨rfl, le_of_lt ‹_›⟩
  · split
    · exact .inr ⟨rfl, le_of_lt ‹_›⟩
    · rcases tie.pick_eq ⌊y⌋ with h | h
      · exact .inl ⟨h, not_lt.1 ‹_›⟩
      · exact .inr ⟨h, not_lt.1 ‹_›⟩

/-- An integer is at least as far away as the neighbour on its side. -/
theorem floor_dist_le (y : ℚ) (n : Int) : y - ⌊y⌋ ≤ |(n : ℚ) - y| ∨ ⌊y⌋ + 1 - y ≤ |(n : ℚ) - y| := by
  rcases lt_or_ge ⌊y⌋ n with hn | hn
  · have h : (⌊y⌋ : ℚ) + 1 ≤ n := by exact_mod_cast hn
    exact .inr (le_abs.2 (.inl (by linarith)))
  · have h : (n : ℚ) ≤ ⌊y⌋ := by exact_mod_cast hn
    exact .inl (le_abs.2 (.inr (by linarith)))

/-- Settles O58. -/
theorem roundNearestIsNearest : Obligations.RoundNearestIsNearest := by
  intro tie y
  have hlo : (⌊y⌋ : ℚ) ≤ y := Int.floor_le y
  have hup : y < ⌊y⌋ + 1 := Int.lt_floor_add_one y
  obtain ⟨hr, hhalf⟩ | ⟨hr, hhalf⟩ := roundNearest_cases tie y
  · have hdist : |(roundNearest tie y : ℚ) - y| = y - ⌊y⌋ := by
      rw [hr, abs_sub_comm, abs_of_nonneg (by linarith)]
    rw [hdist]
    exact ⟨hhalf, fun n => (floor_dist_le y n).elim id fun h => by linarith⟩
  · have hdist : |(roundNearest tie y : ℚ) - y| = ⌊y⌋ + 1 - y := by
      rw [hr, abs_of_nonneg (by push_cast; linarith)]
      push_cast
      rfl
    rw [hdist]
    exact ⟨by linarith, fun n => (floor_dist_le y n).elim (fun h => by linarith) id⟩

/-- An integer is rounded to itself. -/
theorem roundNearest_intCast (tie : RoundTie) (n : Int) : roundNearest tie (n : ℚ) = n := by
  have h := (roundNearestIsNearest tie n).2 n
  rw [sub_self, abs_zero] at h
  have h0 : (roundNearest tie (n : ℚ) : ℚ) - n = 0 := abs_eq_zero.1 (le_antisymm h (abs_nonneg _))
  exact_mod_cast sub_eq_zero.1 h0

/-! ## The types -/

/-- The integer type that a scaled type is issued as (R181). -/
def ScaledType.intType : ScaledType → IntType
  | .i16 => .i16
  | .u16 => .u16
  | .i32 => .i32
  | .u32 => .u32

theorem setWidth_signExtend_self {n m : Nat} (v : BitVec n) (h : n ≤ m) : (v.signExtend m).setWidth n = v := by
  apply BitVec.eq_of_getLsbD_eq
  intro j hj
  rw [BitVec.getLsbD_setWidth, BitVec.getLsbD_signExtend]
  simp [hj, hj.trans_le h]

section
variable (t : ScaledType) (n : Int)

theorem ScaledType.appendOf_eq : t.appendOf n = t.intType.appendOf (t.argOf n) := by cases t <;> rfl

theorem ScaledType.getOf_eq : t.getOf = t.intType.getOf := by cases t <;> rfl

/-- The operand is sign-extended from the width of the type (R181). -/
theorem ScaledType.argOf_eq_signExtend :
    t.argOf n = ((t.argOf n).setWidth (8 * t.intType.width)).signExtend 32 := by
  cases t with
  | i16 | u16 => exact congrArg (BitVec.signExtend 32) (setWidth_signExtend_self (BitVec.ofInt 16 n) (by decide)).symm
  | i32 | u32 => exact ((BitVec.signExtend_eq _).trans (BitVec.setWidth_eq _)).symm

variable {t n}

/-- An integer in the range of the type is what is read from the value that comes back (R181, R184). -/
theorem ScaledType.reading_valueOf (h : t.inRange n = true) : t.reading (t.intType.valueOf (t.argOf n)) = n := by
  have hcut : ((BitVec.ofInt 16 n).signExtend 32).setWidth 16 = BitVec.ofInt 16 n := setWidth_signExtend_self _ (by decide)
  cases t with
  | i16 =>
    obtain ⟨hlo, hup⟩ : -32768 ≤ n ∧ n ≤ 32767 := by simpa [ScaledType.inRange] using h
    show ((((BitVec.ofInt 16 n).signExtend 32).setWidth 16).signExtend 32).toInt = n
    rw [hcut, BitVec.toInt_signExtend_of_le (by decide), BitVec.toInt_ofInt_eq_self (by decide) (by omega) (by omega)]
  | u16 =>
    obtain ⟨hlo, hup⟩ : 0 ≤ n ∧ n ≤ 65535 := by simpa [ScaledType.inRange] using h
    show ((((((BitVec.ofInt 16 n).signExtend 32).setWidth 16).setWidth 32).toNat : Nat) : Int) = n
    rw [hcut, BitVec.toNat_setWidth_of_le (by decide), BitVec.toNat_ofInt]
    omega
  | i32 =>
    obtain ⟨hlo, hup⟩ : -2147483648 ≤ n ∧ n ≤ 2147483647 := by simpa [ScaledType.inRange] using h
    exact BitVec.toInt_ofInt_eq_self (by decide) (by omega) (by omega)
  | u32 =>
    obtain ⟨hlo, hup⟩ : 0 ≤ n ∧ n ≤ 4294967295 := by simpa [ScaledType.inRange] using h
    show (((BitVec.ofInt 32 n).toNat : Nat) : Int) = n
    rw [BitVec.toNat_ofInt]
    omega

end

/-- Settles O59: what comes back is the rounded integer over the scale. -/
theorem scaledRoundTripWithinHalfAUnit : Obligations.ScaledRoundTripWithinHalfAUnit := by
  intro tie ty x scale i hissue
  obtain ⟨n, hn, rfl⟩ := appendScaled_eq_some.1 hissue
  obtain ⟨q, hq, hscale, hround, hrange⟩ := scaledInteger_eq_some.1 hn
  cases hq
  have hpos : (0 : ℚ) < scale := by exact_mod_cast Nat.pos_of_ne_zero hscale
  have hget : getScaled ty scale { status := .ok, data := ty.intType.valueOf (ty.argOf n) } = .ok ((n : ℚ) / scale) := by
    simp only [getScaled, if_neg hscale, ScaledType.reading_valueOf hrange]
  refine ⟨ty.intType, ty.argOf n, n / scale, ty.appendOf_eq n, ty.getOf_eq, ty.argOf_eq_signExtend n,
    ⟨commandWord ty.appendOp (ty.argOf n), ?_, argOf_commandWord _ _, decodeCommand_scaled ty n⟩, ?_, hget, ?_, ?_⟩
  · rw [appendScaledWord, hn]
    rfl
  · rw [getScaledIssue, if_neg hscale, ScaledType.getOf_eq]
  · have hhalf := (roundNearestIsNearest tie (x * scale)).1
    rw [← hround] at hhalf
    have hdiv : (n : ℚ) / scale - x = (n - x * scale) / scale := by field_simp
    rw [hdiv, abs_div, abs_of_pos hpos, div_le_div_iff₀ hpos (by linarith)]
    nlinarith
  · rintro ⟨m, hm⟩
    rw [hm, roundNearest_intCast] at hround
    rw [hround, ← hm]
    exact mul_div_cancel_right₀ x hpos.ne'

end Machine
end Sys2Proof
end

section
/-! Fairness (70_reset_and_hazards.md R233, 60_exceptions.md R213, 00_scope.md R13 (e)): one input leaves a receive going on
without an answer, or ends it, with one answer unless it is the reset. So the first moment at which the block no longer
receives, which the timer brings about, is the end that is sought. -/

namespace Sys2Proof
namespace Machine

/-- From `s` to `t` the receive goes on and nothing is answered, or it ends with one answer. -/
def GoesOnOrAnswers (s t : State) : Prop :=
  (t.rxst = .receiving ∧ t.responses = s.responses) ∨ (t.rxst = .idle ∧ OneAnswer s t)

section
variable {s t : State}

theorem State.afterVerdict_goesOnOrAnswers (hr : s.rxst = .receiving) (v : Verdict) : GoesOnOrAnswers s (s.afterVerdict v) := by
  cases v with
  | incomplete => exact .inl ⟨hr, rfl⟩
  | fail | ok => exact .inr ⟨rfl, _, rfl, rfl⟩

theorem State.takeByte_goesOnOrAnswers {b : Byte} (hr : s.rxst = .receiving) (h : s.takeByte b = .next t) :
    GoesOnOrAnswers s t := by
  obtain ⟨-, rfl⟩ := State.takeByte_eq_next h
  obtain ⟨v, hv⟩ := State.exists_checkReceived_eq_afterVerdict (s.storeReceived b)
  rw [hv]
  exact State.afterVerdict_goesOnOrAnswers (s := s.storeReceived b) hr v

theorem State.deliver_goesOnOrAnswers {bs : List Byte} (hr : s.rxst = .receiving) (h : s.deliver bs = .next t) :
    GoesOnOrAnswers s t := by
  have start : GoesOnOrAnswers s { s with rxBuf := s.rxBuf ++ bs } := .inl ⟨hr, rfl⟩
  refine takeWaiting_keeps (P := GoesOnOrAnswers s) (fun u v b rest hu hur hv => ?_) _ _ _ start h
  obtain ⟨-, hresp⟩ | ⟨hidle, -⟩ := hu
  · have hgoes : GoesOnOrAnswers { u with rxBuf := rest } v := State.takeByte_goesOnOrAnswers hur hv
    simpa only [GoesOnOrAnswers, OneAnswer, hresp] using hgoes
  · cases hur.symm.trans hidle

/-- What one input does to a receive. -/
theorem runInput_of_receiving {x : Input} (hr : s.rxst = .receiving) (h : runInput x s = .next t) :
    (x = .reset ∧ t.rxst = .idle ∧ t.responses = s.responses) ∨ (x ≠ .reset ∧ GoesOnOrAnswers s t) := by
  cases x with
  | command w => cases (runCommand_receiving hr w).symm.trans h
  | arrive b =>
    cases h
    exact .inr ⟨nofun, .inl ⟨hr, rfl⟩⟩
  | rxByte =>
    obtain ⟨-, b, rest, -, htake⟩ := eventRxByte_eq_next h
    exact .inr ⟨nofun, State.takeByte_goesOnOrAnswers (s := { s with rxBuf := rest }) hr htake⟩
  | wire bs =>
    rw [runInput, runWire_eq] at h
    exact .inr ⟨nofun, State.deliver_goesOnOrAnswers hr h⟩
  | timeout =>
    obtain ⟨-, rfl⟩ := eventTimeout_eq_next h
    exact .inr ⟨nofun, .inr ⟨rfl, _, rfl, rfl⟩⟩
  | reset =>
    cases h
    exact .inl ⟨rfl, rfl, rfl⟩

end

section
variable {env : Nat → Input} {σ : Nat → State} {n : Nat}

theorem UnboundedRun.runInput_eq (h : UnboundedRun env σ) (n : Nat) :
    runInput (env n) { σ n with inputs := [] } = .next (σ (n + 1)) :=
  (step_cons (s := { σ n with inputs := [env n] }) rfl).symm.trans (h n)

theorem UnboundedRun.of_receiving (h : UnboundedRun env σ) (hr : (σ n).rxst = .receiving) :
    (env n = .reset ∧ (σ (n + 1)).rxst = .idle ∧ (σ (n + 1)).responses = (σ n).responses) ∨
      (env n ≠ .reset ∧ GoesOnOrAnswers (σ n) (σ (n + 1))) :=
  runInput_of_receiving (s := { σ n with inputs := [] }) hr (h.runInput_eq n)

/-- A receive that goes on from one moment to the next has answered nothing. -/
theorem UnboundedRun.responses_eq (h : UnboundedRun env σ) (hr : (σ n).rxst = .receiving)
    (hr' : (σ (n + 1)).rxst = .receiving) : (σ (n + 1)).responses = (σ n).responses := by
  obtain ⟨-, hidle, -⟩ | ⟨-, ⟨-, hresp⟩ | ⟨hidle, -⟩⟩ := h.of_receiving hr
  · cases hr'.symm.trans hidle
  · exact hresp
  · cases hr'.symm.trans hidle

/-- The fair timer ends a receive that nothing else ends. -/
theorem UnboundedRun.exists_not_receiving (h : UnboundedRun env σ) (hfair : TimerFair env σ) (n : Nat) :
    ∃ j, (σ (n + j)).rxst ≠ .receiving := by
  by_contra hall
  push Not at hall
  have hrec (m : Nat) (hm : n ≤ m) : (σ m).rxst = .receiving := by
    have := hall (m - n)
    rwa [Nat.add_sub_cancel' hm] at this
  obtain ⟨m, hm, htimeout⟩ := hfair n hrec
  have hrun := h.runInput_eq m
  rw [htimeout] at hrun
  obtain ⟨-, hfail⟩ := eventTimeout_eq_next hrun
  have hidle : (σ (m + 1)).rxst = .idle := by
    rw [hfail]
    rfl
  cases (hrec (m + 1) (by omega)).symm.trans hidle

end

/-- Settles O60: the end is the step before the first moment at which the block no longer receives. -/
theorem everyReceiveEndsWhenTheTimerIsFair : Obligations.EveryReceiveEndsWhenTheTimerIsFair := by
  intro env σ n h hfair hr
  have hex := h.exists_not_receiving hfair n
  obtain ⟨j, hj⟩ : ∃ j, Nat.find hex = j + 1 := by
    refine Nat.exists_eq_succ_of_ne_zero fun h0 => ?_
    have hfirst := Nat.find_spec hex
    rw [h0] at hfirst
    exact hfirst hr
  have hend : (σ (n + j + 1)).rxst ≠ .receiving := by
    have hfirst := Nat.find_spec hex
    rwa [hj] at hfirst
  have hbefore (i : Nat) (hi : i ≤ j) : (σ (n + i)).rxst = .receiving :=
    not_not.1 (Nat.find_min hex (show i < Nat.find hex by omega))
  have hsilent (i : Nat) (hi : i ≤ j) : (σ (n + i)).responses = (σ n).responses := by
    induction i with
    | zero => rfl
    | succ i ih => exact (h.responses_eq (hbefore i (by omega)) (hbefore (i + 1) hi)).trans (ih (by omega))
  refine ⟨n + j, by omega, fun k hnk hkj => ?_, ?_⟩
  · obtain ⟨i, rfl⟩ : ∃ i, k = n + i := ⟨k - n, by omega⟩
    exact ⟨hbefore i (by omega), hsilent i (by omega)⟩
  · rw [← hsilent j le_rfl]
    obtain ⟨hreset, hidle, hresp⟩ | ⟨hreset, ⟨hrec, -⟩ | ⟨hidle, hone⟩⟩ := h.of_receiving (hbefore j le_rfl)
    · exact ⟨hidle, .inl ⟨hreset, hresp⟩⟩
    · exact absurd hrec hend
    · exact ⟨hidle, .inr ⟨hreset, hone⟩⟩

end Machine
end Sys2Proof
end

section
/-! A whole exchange (42_deserializer.md R134): integers appended, sent, delivered back and read. The payload is the bytes of
the integers one after the other. The appends put it in `SB`, `SEND`, `RECV` and the delivery of the packet bring it to `PB`,
and each read finds at the cursor the bytes of its integer. -/

namespace Sys2Proof
namespace Machine

/-! ## The integers and their bytes -/

/-- The bytes of a typed integer, most significant first, as many as its type is wide. -/
def itemBytes (it : IntType × Word) : List Byte := beBytes it.1.width it.2

/-- The bytes of a sequence of typed integers. -/
def payloadOf (items : List (IntType × Word)) : List Byte := items.flatMap itemBytes

/-- Is the value read back sign-extended (R126)? -/
def IntType.signed : IntType → Bool
  | .u8 | .u16 | .u32 => false
  | .i8 | .i16 | .i32 => true

@[simp] theorem length_itemBytes (it : IntType × Word) : (itemBytes it).length = it.1.width := length_beBytes _ _

theorem length_payloadOf (items : List (IntType × Word)) : (payloadOf items).length = (items.map fun it => it.1.width).sum := by
  simp [payloadOf, List.length_flatMap]

theorem payloadOf_cons (it : IntType × Word) (items : List (IntType × Word)) :
    payloadOf (it :: items) = itemBytes it ++ payloadOf items := List.flatMap_cons

theorem IntType.isCommand_appendOf (ty : IntType) (arg : Word) : (ty.appendOf arg).isCommand = true := by cases ty <;> rfl

theorem IntType.isCommand_getOf (ty : IntType) : ty.getOf.isCommand = true := by cases ty <;> rfl

theorem appendsBytes_itemBytes (ty : IntType) (arg : Word) : AppendsBytes (ty.appendOf arg) (itemBytes (ty, arg)) := by
  cases ty with
  | u8 | i8 => exact appendsBytes_of_exec_eq (fun _ => rfl) (beBytes_one arg)
  | u16 | i16 => exact appendsBytes_of_exec_eq (fun _ => rfl) (beBytes_two arg)
  | u32 | i32 => exact appendsBytes_of_exec_eq (fun _ => rfl) rfl

theorem readsValue_getOf (ty : IntType) :
    ReadsValue ty.getOf ty.width fun s => extendTo32 ty.width ty.signed (s.pb.readRange s.pcur.toNat ty.width) := by
  cases ty
  all_goals exact readsValue_of_exec_eq (fun _ => rfl) fun _ => rfl

/-- The bytes of an integer are read as the value that comes back (R134). -/
theorem extendTo32_itemBytes (ty : IntType) (arg : Word) :
    extendTo32 ty.width ty.signed (itemBytes (ty, arg)) = ty.valueOf arg := by
  have h8 : arg.extractLsb' 0 8 = arg.setWidth 8 := extractLsb'_zero_eq_setWidth arg (by decide)
  have h16 : half (arg.extractLsb' 8 8) (arg.extractLsb' 0 8) = arg.setWidth 16 :=
    (BitVec.extractLsb'_append_extractLsb'_eq_extractLsb' rfl).trans (extractLsb'_zero_eq_setWidth arg (by decide))
  have h32 : BitVec.ofNat 32 ((arg.extractLsb' 24 8).toNat * 16777216 + (arg.extractLsb' 16 8).toNat * 65536 +
      (arg.extractLsb' 8 8).toNat * 256 + (arg.extractLsb' 0 8).toNat) = arg := by
    apply BitVec.eq_of_toNat_eq
    have := arg.isLt
    simp only [BitVec.toNat_ofNat, BitVec.extractLsb'_toNat, Nat.shiftRight_eq_div_pow]
    omega
  cases ty with
  | u8 => exact (extendTo32_one _).1.trans (congrArg (BitVec.setWidth 32) h8)
  | i8 => exact (extendTo32_one _).2.trans (congrArg (BitVec.signExtend 32) h8)
  | u16 => exact (extendTo32_two _ _).1.trans (congrArg (BitVec.setWidth 32) h16)
  | i16 => exact (extendTo32_two _ _).2.trans (congrArg (BitVec.signExtend 32) h16)
  | u32 | i32 => exact (extendTo32_four _ _ _ _ _).trans h32

/-! ## Runs -/

theorem core_run_add {M : Host.Core} {u v : M.State} {a : Nat} (h : M.run a u = .next v) (b : Nat) :
    M.run (a + b) u = M.run b v := by
  induction a generalizing u with
  | zero =>
    cases h
    rw [Nat.zero_add]
  | succ a ih =>
    rw [Host.Core.run] at h
    split at h
    · rw [Nat.add_right_comm, core_run_succ ‹_›]
      exact ih h
    · cases h
    · cases h

section
variable {u t v : State} {xs : List Input}

/-- A command presented by its code is executed. -/
theorem step_encode {i : Instr} (hc : i.isCommand = true) (hs : u.inputs = inputOf (encode u.params i) :: xs) :
    step u = exec i { u with inputs := xs } :=
  stepRunsTheDecodedInstruction.1 u _ i xs hs (decode_encode_of_isCommand _ hc)

theorem Memory.readRange_add (m : Memory) (a n k : Nat) :
    m.readRange a (n + k) = m.readRange a n ++ m.readRange (a + n) k := by
  apply List.ext_getElem (by simp)
  intro i h1 h2
  rcases Nat.lt_or_ge i n with hi | hi
  · rw [List.getElem_append_left (by simpa using hi)]
    simp
  · rw [List.getElem_append_right (by simpa using hi)]
    simp
    congr 1
    omega

/-! ## The appends -/

/-- What appends do not change. -/
def State.exceptSend (s : State) : State := { s with sb := [], scur := 0, status := .ok, responses := [], inputs := [] }

/-- One append presented by its code: its bytes follow those in `SB`. -/
theorem step_append {ty : IntType} {arg : Word} {pre : List Byte} (h : BlockInv u) (hi : u.rxst = .idle)
    (hs : u.inputs = inputOf (encode u.params (ty.appendOf arg)) :: xs) (hpre : u.sb.readRange 0 u.scur.toNat = pre)
    (hfit : u.scur.toNat + ty.width ≤ Config.sbCap) :
    ∃ t r, step u = .next t ∧ t.exceptSend = u.exceptSend ∧ t.inputs = xs ∧ t.responses = u.responses ++ [r] ∧
      t.scur.toNat = u.scur.toNat + ty.width ∧ t.sb.readRange 0 t.scur.toNat = pre ++ itemBytes (ty, arg) := by
  have hlen : (itemBytes (ty, arg)).length = ty.width := length_itemBytes _
  obtain ⟨t, hexec, hscur, hin, hout, -, hresp, hkeep⟩ :=
    appendsBytes_itemBytes ty arg { u with inputs := xs } hi h.sb_wf (by rwa [hlen])
  rw [hlen] at hscur
  have hkeep' := congrArg State.exceptSend hkeep
  have hinputs := congrArg State.inputs hkeep
  refine ⟨t, _, (step_encode (ty.isCommand_appendOf arg) hs).trans hexec, hkeep', hinputs, hresp, hscur, ?_⟩
  have hold : t.sb.readRange 0 u.scur.toNat = pre := by
    rw [← hpre]
    exact Memory.readRange_congr fun i _ hlt => hout i (.inl (by simpa using hlt))
  have hnew : t.sb.readRange u.scur.toNat ty.width = itemBytes (ty, arg) := by
    apply List.ext_getElem (by simp)
    intro k h1 h2
    rw [Memory.getElem_readRange]
    exact hin k h2
  rw [hscur, Memory.readRange_add, hold, Nat.zero_add]
  exact congrArg (pre ++ ·) hnew

/-- The appends of a sequence of integers put its bytes after those in `SB`. -/
theorem run_appends {p : Params} (items : List (IntType × Word)) : ∀ {u : State} {pre : List Byte}, BlockInv u →
    u.rxst = .idle → u.params = p → u.inputs = items.map (fun it => inputOf (encode p (it.1.appendOf it.2))) ++ xs →
    u.sb.readRange 0 u.scur.toNat = pre → u.scur.toNat + (payloadOf items).length ≤ Config.sbCap →
    ∃ (v : State) (rs : List Response), Sys2Proof.core.run items.length u = .next v ∧ BlockInv v ∧
      v.exceptSend = u.exceptSend ∧ v.inputs = xs ∧ rs.length = items.length ∧ v.responses = u.responses ++ rs ∧
      v.sb.readRange 0 v.scur.toNat = pre ++ payloadOf items := by
  induction items with
  | nil =>
    intro u pre h _ _ hs hpre _
    exact ⟨u, [], rfl, h, rfl, hs, rfl, (List.append_nil _).symm, hpre.trans (List.append_nil _).symm⟩
  | cons it items ih =>
    intro u pre h hi hp hs hpre hfit
    rw [payloadOf_cons, List.length_append, length_itemBytes] at hfit
    obtain ⟨t, r, hstep, hkeep, hin, hresp, hscur, hread⟩ := step_append h hi (by rw [hp]; exact hs) hpre (by omega)
    obtain ⟨v, rs, hrun, hv, hkeep', hin', hlen, hresp', hread'⟩ := ih (everyStepKeepsInv u t h hstep)
      ((congrArg State.rxst hkeep).trans hi) ((congrArg State.params hkeep).trans hp) hin hread (by omega)
    refine ⟨v, r :: rs, (run_succ_of_step hstep _).trans hrun, hv, hkeep'.trans hkeep, hin', by simp [hlen], ?_, ?_⟩
    · rw [hresp', hresp, List.append_assoc, List.singleton_append]
    · rw [hread', payloadOf_cons, List.append_assoc]

/-! ## The reads -/

/-- What reads do not change. -/
def State.exceptRead (s : State) : State := { s with pcur := 0, status := .ok, responses := [], inputs := [] }

/-- One read presented by its code, when the bytes of the integer stand at the cursor. -/
theorem step_read {ty : IntType} {arg : Word} (h : BlockInv u) (hi : u.rxst = .idle)
    (hs : u.inputs = inputOf (encode u.params ty.getOf) :: xs) (hfit : u.pcur.toNat + ty.width ≤ u.plen.toNat)
    (hread : u.pb.readRange u.pcur.toNat ty.width = itemBytes (ty, arg)) :
    ∃ t, step u = .next t ∧ t.exceptRead = u.exceptRead ∧ t.inputs = xs ∧ t.pcur.toNat = u.pcur.toNat + ty.width ∧
      t.responses = u.responses ++ [{ status := .ok, data := ty.valueOf arg }] := by
  obtain ⟨t, hexec, hpcur, -, hresp, hkeep⟩ := readsValue_getOf ty { u with inputs := xs } hi h.plen_le hfit
  have hkeep' := congrArg State.exceptRead hkeep
  have hinputs := congrArg State.inputs hkeep
  refine ⟨t, (step_encode ty.isCommand_getOf hs).trans hexec, hkeep', hinputs, hpcur, ?_⟩
  rw [hresp, ← extendTo32_itemBytes ty arg, ← hread]

/-- The reads of a sequence of integers whose bytes stand at the cursor answer their values. -/
theorem run_reads {p : Params} (items : List (IntType × Word)) : ∀ {u : State}, BlockInv u → u.rxst = .idle → u.params = p →
    u.inputs = items.map (fun it => inputOf (encode p it.1.getOf)) ++ xs →
    u.pcur.toNat + (payloadOf items).length ≤ u.plen.toNat →
    u.pb.readRange u.pcur.toNat (payloadOf items).length = payloadOf items →
    ∃ v : State, Sys2Proof.core.run items.length u = .next v ∧ v.exceptRead = u.exceptRead ∧
      v.pcur.toNat = u.pcur.toNat + (payloadOf items).length ∧
      v.responses = u.responses ++ items.map fun it => { status := .ok, data := it.1.valueOf it.2 } := by
  induction items with
  | nil =>
    intro u _ _ _ _ _ _
    exact ⟨u, rfl, rfl, rfl, (List.append_nil _).symm⟩
  | cons it items ih =>
    intro u h hi hp hs hfit hread
    rw [payloadOf_cons, List.length_append, length_itemBytes] at hfit hread
    rw [Memory.readRange_add] at hread
    obtain ⟨hfirst, hrest⟩ := List.append_inj hread (by simp)
    obtain ⟨t, hstep, hkeep, hin, hpcur, hresp⟩ := step_read h hi (by rw [hp]; exact hs) (by omega) hfirst
    have hpb : t.pb = u.pb := show t.exceptRead.pb = u.exceptRead.pb by rw [hkeep]
    have hplen : t.plen = u.plen := show t.exceptRead.plen = u.exceptRead.plen by rw [hkeep]
    obtain ⟨v, hrun, hkeep', hpcur', hresp'⟩ := ih (everyStepKeepsInv u t h hstep)
      ((congrArg State.rxst hkeep).trans hi) ((congrArg State.params hkeep).trans hp) hin
      (by rw [hpcur, hplen]; omega) (by rw [hpcur, hpb]; exact hrest)
    refine ⟨v, (run_succ_of_step hstep _).trans hrun, hkeep'.trans hkeep, ?_, ?_⟩
    · rw [hpcur', hpcur, payloadOf_cons, List.length_append, length_itemBytes, Nat.add_assoc]
    · rw [hresp', hresp, List.append_assoc]
      rfl

/-! ## Sent and received -/

theorem step_recv (hi : u.rxst = .idle) (hs : u.inputs = inputOf (encode u.params .recv) :: xs) :
    step u = .next { u with inputs := xs, plen := 0, pcur := 0, rcnt := 0, rxst := .receiving } :=
  (step_encode (i := .recv) rfl hs).trans (State.accept_idle hi _)

/-- `SEND` that the transport accepts whole (R142). -/
theorem step_send_whole {pkt : List Byte} {a : Nat} {as : List Nat} (hi : u.rxst = .idle) (hans : u.txAnswers = a :: as)
    (ha : 518 ≤ a) (hf : frame u.params (u.sb.readRange 0 u.scur.toNat) = some pkt)
    (hs : u.inputs = inputOf (encode u.params .send) :: xs) :
    ∃ v r, step u = .next v ∧ v.rxst = .idle ∧ v.rxBuf = u.rxBuf ∧ v.params = u.params ∧ v.inputs = xs ∧
      v.txLog = u.txLog ++ [{ packet := pkt, accepted := pkt.length }] ∧ v.responses = u.responses ++ [r] := by
  have hcount : u.txAccept pkt.length = pkt.length :=
    (State.txAccept_cons hans _).trans (Nat.min_eq_right ((length_frame_le hf).trans ha))
  have hsend := (step_encode (i := .send) rfl hs).trans (exec_send_of_frame (s := { u with inputs := xs }) hi hf)
  exact ⟨_, _, hsend, hi, rfl, rfl, rfl,
    congrArg (fun w => u.txLog ++ [({ packet := pkt, accepted := w } : TxWrite)]) hcount, rfl⟩

/-- The packet of a payload, delivered to a receive that has taken nothing, puts the payload in `PB`, unread. -/
theorem step_wire_frame {P pkt : List Byte} (h : BlockInv u) (hr : u.rxst = .receiving) (h0 : u.rcnt = 0) (hbuf : u.rxBuf = [])
    (hf : frame u.params P = some pkt) (hs : u.inputs = .wire pkt :: xs) :
    ∃ v r, step u = .next v ∧ v.rxst = .idle ∧ v.params = u.params ∧ v.inputs = xs ∧ v.txLog = u.txLog ∧
      v.responses = u.responses ++ [r] ∧ v.pcur = 0 ∧ v.plen.toNat = P.length ∧ v.pb.readRange 0 P.length = P := by
  have hv : deframe u.params pkt = .ok P pkt.length := by
    have hround := deframe_frame h.params_wf hf []
    rwa [List.append_nil] at hround
  have hwire : step u = .next ({ u with inputs := xs }.received pkt) := by
    rw [step_wire hs, State.deliver_eq ((h.receiving hr).withInputs xs u.rxBuf), hbuf]
    rfl
  rw [State.received_of_rcnt_eq_zero (s := { u with inputs := xs }) h0 (congrArg Verdict.taken hv), hv] at hwire
  exact ⟨_, _, hwire, rfl, rfl, rfl, rfl, rfl, rfl, State.deliverPayload_plen (length_of_frame hf).1,
    (State.deliverPayload_pb h.pb_wf P).1⟩

/-- `SEND`, `RECV` and the delivery of the packet sent bring the payload from `SB` to `PB`. -/
theorem run_exchange {P pkt : List Byte} {a : Nat} {as : List Nat} (h : BlockInv u) (hi : u.rxst = .idle)
    (hbuf : u.rxBuf = []) (hans : u.txAnswers = a :: as) (ha : 518 ≤ a) (hP : u.sb.readRange 0 u.scur.toNat = P)
    (hf : frame u.params P = some pkt)
    (hs : u.inputs = inputOf (encode u.params .send) :: inputOf (encode u.params .recv) :: .wire pkt :: xs) :
    ∃ (v : State) (r r' : Response), Sys2Proof.core.run 3 u = .next v ∧ BlockInv v ∧ v.rxst = .idle ∧
      v.params = u.params ∧ v.inputs = xs ∧ v.txLog = u.txLog ++ [{ packet := pkt, accepted := pkt.length }] ∧
      v.responses = u.responses ++ [r, r'] ∧ v.pcur = 0 ∧ v.plen.toNat = P.length ∧ v.pb.readRange 0 P.length = P := by
  obtain ⟨w, r, hsend, hwi, hwbuf, hwp, hwin, hwlog, hwresp⟩ := step_send_whole hi hans ha (by rw [hP]; exact hf) hs
  have hrecv := step_recv hwi (hwin.trans (by rw [hwp]))
  have hw := everyStepKeepsInv _ _ (everyStepKeepsInv _ _ h hsend) hrecv
  obtain ⟨v, r', hwire, hvi, hvp, hvin, hvlog, hvresp, hpcur, hplen, hpb⟩ :=
    step_wire_frame hw rfl rfl (hwbuf.trans hbuf) (by rw [hwp]; exact hf) rfl
  have hrun := (run_succ_of_step hsend 2).trans ((run_succ_of_step hrecv 1).trans (run_succ_of_step hwire 0))
  refine ⟨v, r, r', hrun, everyStepKeepsInv _ v hw hwire, hvi, hvp.trans hwp, hvin, hvlog.trans hwlog, ?_, hpcur, hplen, hpb⟩
  rw [hvresp, hwresp, List.append_assoc, List.singleton_append]

end

/-- Settles O57: the payload of the integers is appended, sent whole, received, and read. -/
theorem sentIntegersComeBack : Obligations.SentIntegersComeBack := by
  intro s items rest a as h hi hscur hbuf hans ha hsum
  rw [← length_payloadOf] at hsum ⊢
  obtain ⟨pkt, hf⟩ : ∃ pkt, frame s.params (payloadOf items) = some pkt := ⟨_, frame_isSome hsum⟩
  have hnone : s.sb.readRange 0 s.scur.toNat = [] := by rw [hscur]; rfl
  -- the appends
  obtain ⟨v, rs, hrun, hv, hkeep, hin, hrs, hresp, hread⟩ := run_appends (p := s.params) items
    (xs := [give s .send, give s .recv, .wire pkt] ++ (items.map (fun it => give s it.1.getOf) ++ rest))
    (u := { s with inputs := items.map (fun it => give s (it.1.appendOf it.2)) ++
      ([give s .send, give s .recv, .wire pkt] ++ (items.map (fun it => give s it.1.getOf) ++ rest)) })
    (pre := []) (h.withEnv _ s.rxBuf) hi rfl rfl hnone (by simpa [hscur] using hsum)
  have hparams : v.params = s.params := show v.exceptSend.params = s.exceptSend.params by rw [hkeep]; rfl
  have hlog : v.txLog = s.txLog := show v.exceptSend.txLog = s.exceptSend.txLog by rw [hkeep]; rfl
  -- the packet sent and delivered back
  have hvi : v.rxst = .idle := show v.exceptSend.rxst = _ by rw [hkeep]; exact hi
  have hvans : v.txAnswers = a :: as := show v.exceptSend.txAnswers = _ by rw [hkeep]; exact hans
  have hvbuf : v.rxBuf = [] := show v.exceptSend.rxBuf = _ by rw [hkeep]; exact hbuf
  obtain ⟨x, r, r', hthree, hx, hxi, hxp, hxin, hxlog, hxresp, hpcur, hplen, hpb⟩ :=
    run_exchange (P := payloadOf items) hv hvi hvbuf hvans ha hread (by rw [hparams]; exact hf) (by rw [hparams]; exact hin)
  -- the reads
  obtain ⟨t, hrun₂, hkeep₂, hpcur₂, hresp₂⟩ := run_reads (p := s.params) (xs := rest) items hx hxi
    (hxp.trans hparams) hxin (by rw [hpcur, hplen]; simp) (by rw [hpcur]; exact hpb)
  have htlog : t.txLog = x.txLog := show t.exceptRead.txLog = x.exceptRead.txLog by rw [hkeep₂]
  have htplen : t.plen = x.plen := show t.exceptRead.plen = x.exceptRead.plen by rw [hkeep₂]
  have hcursor : t.pcur.toNat = (payloadOf items).length := by rw [hpcur₂, hpcur]; simp
  refine ⟨pkt, t, rs ++ [r, r'], ?_, ?_, by simp [hrs], ?_, ?_, ?_⟩
  · exact (core_run_add ((core_run_add hrun 3).trans hthree) items.length).trans hrun₂
  · rw [htlog, hxlog, hlog]
  · rw [hresp₂, hxresp, hresp]
    simp
  · exact BitVec.eq_of_toNat_eq (by rw [hcursor, htplen, hplen])
  · rw [htplen, hplen]

end Machine
end Sys2Proof
end
